-- ==== Sys2Proof/Word.lean ====
section
/-! DEFINITION. The widths the spec fixes (R8): 32-bit words, 8-bit bytes, 5-bit register numbers. -/

namespace Sys2Proof

/-- A byte of memory (R30). -/
abbrev Byte := BitVec 8

/-- A 32-bit value: a register, an address, the pc, an instruction word (R8). -/
abbrev Word := BitVec 32

/-- A register number, 0..31; no value is reserved (R87). -/
abbrev RegIdx := BitVec 5

end Sys2Proof
end

