-- ==== Sys2Proof/WellFormed.lean ====
section
/-! DEFINITION. Which instruction terms an encoding can hold: a branch offset and a JAL offset are always even (R71, R73).
Every other field admits every value of its type (R87, R145). -/

namespace Sys2Proof

/-- R71: `imm_B` is "always even". -/
def branchOffsetOk (offset : BitVec 13) : Bool := !offset.getLsbD 0

/-- R73: `imm_J` is "always even". -/
def jalOffsetOk (offset : BitVec 21) : Bool := !offset.getLsbD 0

/-- The check on an instruction term. -/
def Instr.wellFormed : Instr → Bool
  | .jal _ offset => jalOffsetOk offset
  | .beq _ _ offset | .bne _ _ offset | .blt _ _ offset
  | .bge _ _ offset | .bltu _ _ offset | .bgeu _ _ offset => branchOffsetOk offset
  | .lui _ _ | .auipc _ _ | .jalr _ _ _
  | .lb _ _ _ | .lh _ _ _ | .lw _ _ _ | .lbu _ _ _ | .lhu _ _ _ | .sb _ _ _ | .sh _ _ _ | .sw _ _ _
  | .addi _ _ _ | .slti _ _ _ | .sltiu _ _ _ | .xori _ _ _ | .ori _ _ _ | .andi _ _ _
  | .slli _ _ _ | .srli _ _ _ | .srai _ _ _
  | .add _ _ _ | .sub _ _ _ | .sll _ _ _ | .slt _ _ _ | .sltu _ _ _ | .xor _ _ _ | .srl _ _ _ | .sra _ _ _
  | .or _ _ _ | .and _ _ _ | .ecall | .ebreak | .fence => true

end Sys2Proof
end

