-- ==== Sys2Proof/Decode.lean ====
section
/-! DEFINITION. The byte order, the decoder and the encoder.  Layouts and immediates follow R61 to R73, the opcode map R74 to
R80 and opcode_table.json; the numeric values are the spec's (D1, log 13). -/

namespace Sys2Proof

/-! ### Byte order (R42, R43, R46): little-endian, for data and for instructions -/

/-- The value of bytes in address order, the first the least significant (R42), as 32 bits. -/
def leValue : List Byte → Word
  | [] => 0#32
  | b :: bs => b.setWidth 32 ||| (leValue bs <<< 8)

/-- The low `n` bytes of a value in address order, the least significant first (R43). -/
def leBytes : Nat → Word → List Byte
  | 0, _ => []
  | n + 1, v => v.setWidth 8 :: leBytes n (v >>> 8)

/-! ### Fields of a word (R61 to R66, R87) -/

/-- `w[6:0]` (R60). -/
def opcodeOf (w : Word) : BitVec 7 := w.extractLsb' 0 7
/-- `w[11:7]`. -/
def rdOf (w : Word) : RegIdx := w.extractLsb' 7 5
/-- `w[14:12]`. -/
def funct3Of (w : Word) : BitVec 3 := w.extractLsb' 12 3
/-- `w[19:15]`. -/
def rs1Of (w : Word) : RegIdx := w.extractLsb' 15 5
/-- `w[24:20]`. -/
def rs2Of (w : Word) : RegIdx := w.extractLsb' 20 5
/-- `w[31:25]`. -/
def funct7Of (w : Word) : BitVec 7 := w.extractLsb' 25 7

/-- The field of `imm_I` (R68), before extension. -/
def immIOf (w : Word) : BitVec 12 := w.extractLsb' 20 12
/-- `shamt` (R69): the I-unsigned view. -/
def shamtOf (w : Word) : BitVec 5 := w.extractLsb' 20 5
/-- The field of `imm_S` (R70), before extension. -/
def immSOf (w : Word) : BitVec 12 := w.extractLsb' 25 7 ++ w.extractLsb' 7 5
/-- The field of `imm_B` (R71), before extension. -/
def immBOf (w : Word) : BitVec 13 :=
  w.extractLsb' 31 1 ++ w.extractLsb' 7 1 ++ w.extractLsb' 25 6 ++ w.extractLsb' 8 4 ++ 0#1
/-- `w[31:12]`, the field of `imm_U` (R72). -/
def imm20Of (w : Word) : BitVec 20 := w.extractLsb' 12 20
/-- The field of `imm_J` (R73), before extension. -/
def immJOf (w : Word) : BitVec 21 :=
  w.extractLsb' 31 1 ++ w.extractLsb' 12 8 ++ w.extractLsb' 20 1 ++ w.extractLsb' 21 10 ++ 0#1

/-! ### The opcode map (R74) -/

def opLui : BitVec 7 := 0x37#7
def opAuipc : BitVec 7 := 0x17#7
def opJal : BitVec 7 := 0x6F#7
def opJalr : BitVec 7 := 0x67#7
def opBranch : BitVec 7 := 0x63#7
def opLoad : BitVec 7 := 0x03#7
def opStore : BitVec 7 := 0x23#7
def opOpImm : BitVec 7 := 0x13#7
def opOp : BitVec 7 := 0x33#7
def opSystem : BitVec 7 := 0x73#7
def opMiscMem : BitVec 7 := 0x0F#7

/-- funct7 0100000, which selects SUB, SRA and SRAI (R76). -/
def funct7Alt : BitVec 7 := 0x20#7

/-! ### The decoder -/

/-- One line of the table of R75: what each value of funct3 selects, 000 to 111. -/
def byFunct3 (w : Word) (d0 d1 d2 d3 d4 d5 d6 d7 : Decoded) : Decoded :=
  if funct3Of w = 0#3 then d0
  else if funct3Of w = 1#3 then d1
  else if funct3Of w = 2#3 then d2
  else if funct3Of w = 3#3 then d3
  else if funct3Of w = 4#3 then d4
  else if funct3Of w = 5#3 then d5
  else if funct3Of w = 6#3 then d6
  else d7

/-- R76: the two values of w[31:25] that can name an instruction; any other is reserved. -/
def byFunct7 (w : Word) (plain alt : Decoded) : Decoded :=
  if funct7Of w = 0#7 then plain else if funct7Of w = funct7Alt then alt else .reserved

/-- R75, opcode 0x63. -/
def decodeBranch (w : Word) : Decoded :=
  byFunct3 w
    (.instr (.beq (rs1Of w) (rs2Of w) (immBOf w)))
    (.instr (.bne (rs1Of w) (rs2Of w) (immBOf w)))
    .reserved
    .reserved
    (.instr (.blt (rs1Of w) (rs2Of w) (immBOf w)))
    (.instr (.bge (rs1Of w) (rs2Of w) (immBOf w)))
    (.instr (.bltu (rs1Of w) (rs2Of w) (immBOf w)))
    (.instr (.bgeu (rs1Of w) (rs2Of w) (immBOf w)))

/-- R75, opcode 0x03. -/
def decodeLoad (w : Word) : Decoded :=
  byFunct3 w
    (.instr (.lb (rdOf w) (rs1Of w) (immIOf w)))
    (.instr (.lh (rdOf w) (rs1Of w) (immIOf w)))
    (.instr (.lw (rdOf w) (rs1Of w) (immIOf w)))
    .reserved
    (.instr (.lbu (rdOf w) (rs1Of w) (immIOf w)))
    (.instr (.lhu (rdOf w) (rs1Of w) (immIOf w)))
    .reserved
    .reserved

/-- R75, opcode 0x23. -/
def decodeStore (w : Word) : Decoded :=
  byFunct3 w
    (.instr (.sb (rs1Of w) (rs2Of w) (immSOf w)))
    (.instr (.sh (rs1Of w) (rs2Of w) (immSOf w)))
    (.instr (.sw (rs1Of w) (rs2Of w) (immSOf w)))
    .reserved .reserved .reserved .reserved .reserved

/-- R75 and R76, opcode 0x13. -/
def decodeOpImm (w : Word) : Decoded :=
  byFunct3 w
    (.instr (.addi (rdOf w) (rs1Of w) (immIOf w)))
    (byFunct7 w (.instr (.slli (rdOf w) (rs1Of w) (shamtOf w))) .reserved)
    (.instr (.slti (rdOf w) (rs1Of w) (immIOf w)))
    (.instr (.sltiu (rdOf w) (rs1Of w) (immIOf w)))
    (.instr (.xori (rdOf w) (rs1Of w) (immIOf w)))
    (byFunct7 w (.instr (.srli (rdOf w) (rs1Of w) (shamtOf w))) (.instr (.srai (rdOf w) (rs1Of w) (shamtOf w))))
    (.instr (.ori (rdOf w) (rs1Of w) (immIOf w)))
    (.instr (.andi (rdOf w) (rs1Of w) (immIOf w)))

/-- R75 and R76, opcode 0x33. -/
def decodeOp (w : Word) : Decoded :=
  byFunct3 w
    (byFunct7 w (.instr (.add (rdOf w) (rs1Of w) (rs2Of w))) (.instr (.sub (rdOf w) (rs1Of w) (rs2Of w))))
    (byFunct7 w (.instr (.sll (rdOf w) (rs1Of w) (rs2Of w))) .reserved)
    (byFunct7 w (.instr (.slt (rdOf w) (rs1Of w) (rs2Of w))) .reserved)
    (byFunct7 w (.instr (.sltu (rdOf w) (rs1Of w) (rs2Of w))) .reserved)
    (byFunct7 w (.instr (.xor (rdOf w) (rs1Of w) (rs2Of w))) .reserved)
    (byFunct7 w (.instr (.srl (rdOf w) (rs1Of w) (rs2Of w))) (.instr (.sra (rdOf w) (rs1Of w) (rs2Of w))))
    (byFunct7 w (.instr (.or (rdOf w) (rs1Of w) (rs2Of w))) .reserved)
    (byFunct7 w (.instr (.and (rdOf w) (rs1Of w) (rs2Of w))) .reserved)

/-- R77: the SYSTEM opcode, by `w[31:20]` alone. -/
def decodeSystem (w : Word) : Decoded :=
  if immIOf w = 0#12 then .instr .ecall else .instr .ebreak

/-- The decoder: total on every word (R84). -/
def decode (w : Word) : Decoded :=
  if opcodeOf w = opLui then .instr (.lui (rdOf w) (imm20Of w))
  else if opcodeOf w = opAuipc then .instr (.auipc (rdOf w) (imm20Of w))
  else if opcodeOf w = opJal then .instr (.jal (rdOf w) (immJOf w))
  else if opcodeOf w = opJalr then
    if funct3Of w = 0#3 then .instr (.jalr (rdOf w) (rs1Of w) (immIOf w)) else .reserved
  else if opcodeOf w = opBranch then decodeBranch w
  else if opcodeOf w = opLoad then decodeLoad w
  else if opcodeOf w = opStore then decodeStore w
  else if opcodeOf w = opOpImm then decodeOpImm w
  else if opcodeOf w = opOp then decodeOp w
  else if opcodeOf w = opSystem then decodeSystem w
  else if opcodeOf w = opMiscMem then .instr .fence
  else .unknown

/-- The host's reading of a table word: the word laid out in memory order and given to the decoder. -/
def decodeTableWord (nbits w : Nat) : Option Instr :=
  match decode (leValue (leBytes 4 (BitVec.ofNat 32 (w % 2 ^ nbits)))) with
  | .instr i => some i
  | .unknown => none
  | .reserved => none

/-! ### The encoder -/

/-- R61. -/
def encR (funct7 : BitVec 7) (rs2 rs1 : RegIdx) (funct3 : BitVec 3) (rd : RegIdx) (op : BitVec 7) : Word :=
  funct7 ++ rs2 ++ rs1 ++ funct3 ++ rd ++ op

/-- R62. -/
def encI (imm : BitVec 12) (rs1 : RegIdx) (funct3 : BitVec 3) (rd : RegIdx) (op : BitVec 7) : Word :=
  imm ++ rs1 ++ funct3 ++ rd ++ op

/-- R63. -/
def encS (imm : BitVec 12) (rs2 rs1 : RegIdx) (funct3 : BitVec 3) (op : BitVec 7) : Word :=
  imm.extractLsb' 5 7 ++ rs2 ++ rs1 ++ funct3 ++ imm.extractLsb' 0 5 ++ op

/-- R64. -/
def encB (imm : BitVec 13) (rs2 rs1 : RegIdx) (funct3 : BitVec 3) (op : BitVec 7) : Word :=
  imm.extractLsb' 12 1 ++ imm.extractLsb' 5 6 ++ rs2 ++ rs1 ++ funct3 ++ imm.extractLsb' 1 4 ++ imm.extractLsb' 11 1 ++ op

/-- R65. -/
def encU (imm20 : BitVec 20) (rd : RegIdx) (op : BitVec 7) : Word :=
  imm20 ++ rd ++ op

/-- R66. -/
def encJ (imm : BitVec 21) (rd : RegIdx) (op : BitVec 7) : Word :=
  imm.extractLsb' 20 1 ++ imm.extractLsb' 1 10 ++ imm.extractLsb' 11 1 ++ imm.extractLsb' 12 8 ++ rd ++ op

/-- The word of a well-formed instruction.  Where a class ignores fields (R77, R78) it is the class's `match` word in
opcode_table.json (log 28). -/
def encode : Instr → Word
  | .lui rd imm20 => encU imm20 rd opLui
  | .auipc rd imm20 => encU imm20 rd opAuipc
  | .jal rd offset => encJ offset rd opJal
  | .jalr rd rs1 imm => encI imm rs1 0#3 rd opJalr
  | .beq rs1 rs2 offset => encB offset rs2 rs1 0#3 opBranch
  | .bne rs1 rs2 offset => encB offset rs2 rs1 1#3 opBranch
  | .blt rs1 rs2 offset => encB offset rs2 rs1 4#3 opBranch
  | .bge rs1 rs2 offset => encB offset rs2 rs1 5#3 opBranch
  | .bltu rs1 rs2 offset => encB offset rs2 rs1 6#3 opBranch
  | .bgeu rs1 rs2 offset => encB offset rs2 rs1 7#3 opBranch
  | .lb rd rs1 imm => encI imm rs1 0#3 rd opLoad
  | .lh rd rs1 imm => encI imm rs1 1#3 rd opLoad
  | .lw rd rs1 imm => encI imm rs1 2#3 rd opLoad
  | .lbu rd rs1 imm => encI imm rs1 4#3 rd opLoad
  | .lhu rd rs1 imm => encI imm rs1 5#3 rd opLoad
  | .sb rs1 rs2 imm => encS imm rs2 rs1 0#3 opStore
  | .sh rs1 rs2 imm => encS imm rs2 rs1 1#3 opStore
  | .sw rs1 rs2 imm => encS imm rs2 rs1 2#3 opStore
  | .addi rd rs1 imm => encI imm rs1 0#3 rd opOpImm
  | .slti rd rs1 imm => encI imm rs1 2#3 rd opOpImm
  | .sltiu rd rs1 imm => encI imm rs1 3#3 rd opOpImm
  | .xori rd rs1 imm => encI imm rs1 4#3 rd opOpImm
  | .ori rd rs1 imm => encI imm rs1 6#3 rd opOpImm
  | .andi rd rs1 imm => encI imm rs1 7#3 rd opOpImm
  | .slli rd rs1 shamt => encR 0#7 shamt rs1 1#3 rd opOpImm
  | .srli rd rs1 shamt => encR 0#7 shamt rs1 5#3 rd opOpImm
  | .srai rd rs1 shamt => encR funct7Alt shamt rs1 5#3 rd opOpImm
  | .add rd rs1 rs2 => encR 0#7 rs2 rs1 0#3 rd opOp
  | .sub rd rs1 rs2 => encR funct7Alt rs2 rs1 0#3 rd opOp
  | .sll rd rs1 rs2 => encR 0#7 rs2 rs1 1#3 rd opOp
  | .slt rd rs1 rs2 => encR 0#7 rs2 rs1 2#3 rd opOp
  | .sltu rd rs1 rs2 => encR 0#7 rs2 rs1 3#3 rd opOp
  | .xor rd rs1 rs2 => encR 0#7 rs2 rs1 4#3 rd opOp
  | .srl rd rs1 rs2 => encR 0#7 rs2 rs1 5#3 rd opOp
  | .sra rd rs1 rs2 => encR funct7Alt rs2 rs1 5#3 rd opOp
  | .or rd rs1 rs2 => encR 0#7 rs2 rs1 6#3 rd opOp
  | .and rd rs1 rs2 => encR 0#7 rs2 rs1 7#3 rd opOp
  | .ecall => 0x00000073#32
  | .ebreak => 0x00100073#32
  | .fence => 0x0000000F#32

/-- The instruction's mnemonic, as opcode_table.json spells it. -/
def mnemonicOf : Instr → String
  | .lui _ _ => "LUI"
  | .auipc _ _ => "AUIPC"
  | .jal _ _ => "JAL"
  | .jalr _ _ _ => "JALR"
  | .beq _ _ _ => "BEQ"
  | .bne _ _ _ => "BNE"
  | .blt _ _ _ => "BLT"
  | .bge _ _ _ => "BGE"
  | .bltu _ _ _ => "BLTU"
  | .bgeu _ _ _ => "BGEU"
  | .lb _ _ _ => "LB"
  | .lh _ _ _ => "LH"
  | .lw _ _ _ => "LW"
  | .lbu _ _ _ => "LBU"
  | .lhu _ _ _ => "LHU"
  | .sb _ _ _ => "SB"
  | .sh _ _ _ => "SH"
  | .sw _ _ _ => "SW"
  | .addi _ _ _ => "ADDI"
  | .slti _ _ _ => "SLTI"
  | .sltiu _ _ _ => "SLTIU"
  | .xori _ _ _ => "XORI"
  | .ori _ _ _ => "ORI"
  | .andi _ _ _ => "ANDI"
  | .slli _ _ _ => "SLLI"
  | .srli _ _ _ => "SRLI"
  | .srai _ _ _ => "SRAI"
  | .add _ _ _ => "ADD"
  | .sub _ _ _ => "SUB"
  | .sll _ _ _ => "SLL"
  | .slt _ _ _ => "SLT"
  | .sltu _ _ _ => "SLTU"
  | .xor _ _ _ => "XOR"
  | .srl _ _ _ => "SRL"
  | .sra _ _ _ => "SRA"
  | .or _ _ _ => "OR"
  | .and _ _ _ => "AND"
  | .ecall => "ECALL"
  | .ebreak => "EBREAK"
  | .fence => "FENCE"

end Sys2Proof
end

