-- ==== Sys2Proof/Config.lean ====
section
/-! DEFINITION. What an implementation fixes: the parameters of R9, with the reference values, and the free values, which
the spec leaves open and about which nothing can be proved (they have no body). -/

namespace Sys2Proof

/-- R28, R46, D4: what a fetch at a pc that is no multiple of 4 does. -/
inductive MisalignedPcPolicy where
  /-- The default: the 4 bytes at pc are fetched. -/
  | fetchUnaligned
  /-- The fetch halts with `MisalignedPc`. -/
  | fault
deriving DecidableEq, Repr

/-- R80, R169, D5: what a reserved encoding does. -/
inductive ReservedPolicy where
  /-- The default: a no-op with an "unknown" trace line. -/
  | softNop
  /-- The word halts the engine with `ReservedEncoding`. -/
  | fault
deriving DecidableEq, Repr

/-- The parameters of R9.  TRACE_LINE_MAX is presentation only, and HDR_MIN is the constant `Config.hdrMin`. -/
structure Params where
  /-- MEM_SIZE, in bytes (D30). -/
  memSize : Nat
  /-- MAGIC0, the image's first word (R222). -/
  magic0 : Word
  /-- MAGIC1, the image's second word (R222). -/
  magic1 : Word
  /-- TYPE_EXEC (R223). -/
  typeExec : BitVec 16
  /-- MACHINE_ID (R224). -/
  machineId : BitVec 16
  /-- OFF_TYPE, a byte offset into the image (R223). -/
  offType : Nat
  /-- OFF_MACHINE (R224). -/
  offMachine : Nat
  /-- OFF_ENTRY (R227). -/
  offEntry : Nat
  /-- STR_MAX, the bound on the string of syscall 101 (R179, D15). -/
  strMax : Nat
  /-- MISALIGNED_PC_POLICY. -/
  misalignedPc : MisalignedPcPolicy
  /-- RESERVED_POLICY. -/
  reserved : ReservedPolicy
deriving DecidableEq, Repr

/-- HDR_MIN (R9, R221): a loadable image has more than this many bytes. -/
def Config.hdrMin : Nat := 52

/-- The legal parameters.  MEM_SIZE and STR_MAX have the spec's bounds (R9 and D30; D15).  The range of the three offsets is the
MODEL'S CHOICE (log 34): R9 gives none and R225 says only that each offset is below 52; here offset plus field width is at
most 52, that is at most 50, 50 and 48, so that each field lies inside the 52-byte header. -/
abbrev Params.wf (p : Params) : Prop :=
  54 ≤ p.memSize ∧ p.memSize ≤ 2 ^ 32 ∧ 1 ≤ p.strMax ∧
  p.offType + 2 ≤ Config.hdrMin ∧ p.offMachine + 2 ≤ Config.hdrMin ∧ p.offEntry + 4 ≤ Config.hdrMin

/-- FREE VALUE (log 6): the byte at an address that nothing has written since the given reset (R231, U6: "any value",
chosen once per reset). -/
opaque Config.freeByte (reset address : Nat) : Byte

/-- FREE VALUE (log 8): the switch value of the n-th read for which no input was listed (R181, R195, U9). -/
opaque Config.freeSwitch (n : Nat) : Word

/-- FREE VALUE (log 9): the button mask of the n-th sample for which no input was listed (R195, U10). -/
opaque Config.freeButtons (n : Nat) : Word

/-- FREE VALUE (log 10): the image the host supplies at the given reset where no image was listed (R207, R213). -/
opaque Config.freeImage (reset : Nat) : List Byte

/-- FREE VALUE (log 5): STR_MAX less one; the spec gives no value, only STR_MAX ≥ 1 (D15). -/
opaque Config.freeStrMaxPred : Nat

/-- The reference configuration (R9): 1 MiB, the suggested loader constants (D14, log 4), the default policies (D4, D5),
and STR_MAX left open (D15, log 5). -/
def Params.reference : Params where
  memSize := 1048576
  magic0 := 0x464C457F#32
  magic1 := 0x00010101#32
  typeExec := 2#16
  machineId := 0x00F3#16
  offType := 16
  offMachine := 18
  offEntry := 24
  strMax := Config.freeStrMaxPred + 1
  misalignedPc := .fetchUnaligned
  reserved := .softNop

end Sys2Proof
end

