-- ==== Sys2Proof/Machine/State.lean ====
section
/-! DEFINITION. The machine's state: all the spec gives it (R20, R26, R30, R31, R32), the outputs it has emitted (R205, R206),
the inputs still to come (R36, R195, R207), and the model's own counters.  INVENTORY.md, "State", lists every field. -/

namespace Sys2Proof.Machine

/-- The fatal run-time conditions of R191, each with its recorded info. -/
inductive Fatal where
  /-- Code 2: a step found `pc ≥ MEM_SIZE` (R91). -/
  | pcOutOfBounds (pc : Word)
  /-- Code 3: the 4 bytes of a fetch pass MEM_SIZE (R48). -/
  | fetchOutOfRange (pc : Word)
  /-- Code 4: a load, a store or a syscall-101 byte out of range (R47, R179). -/
  | dataOutOfRange (ea cur : Word)
  /-- Code 5: a reserved word, under RESERVED_POLICY = Fault (R169). -/
  | reservedEncoding (w cur : Word)
  /-- Code 6: a fetch at a pc that is no multiple of 4, under MISALIGNED_PC_POLICY = Fault (R46). -/
  | misalignedPc (pc : Word)
deriving DecidableEq, Repr

/-- The load errors of R220, each with the info of R191. -/
inductive LoadErr where
  /-- Code 16 (R221). -/
  | badSize (length : Nat)
  /-- Code 17 (R222). -/
  | badMagic
  /-- Code 18 (R223). -/
  | badType
  /-- Code 19 (R224). -/
  | badMachine
deriving DecidableEq, Repr

/-- `halt_reason` (R32). -/
inductive HaltReason where
  | none
  | exit
  | fatal (f : Fatal)
  | loadError (k : LoadErr)
deriving DecidableEq, Repr

/-- Which line an `Executed` event stands for (R96). -/
inductive TraceLine where
  | plain
  /-- MISC-MEM (R167). -/
  | unsupported
  /-- An unknown opcode (R168), or a reserved encoding under SoftNop (R169). -/
  | unknown
deriving DecidableEq, Repr

/-- Events of the Trace channel (R205). -/
inductive TraceEvent where
  | executed (cur w : Word) (d : Decoded) (line : TraceLine)
  | fatalReport (f : Fatal)
deriving DecidableEq, Repr

/-- Events of the Diag channel (R205). -/
inductive DiagEvent where
  | exitCall
  | printInt (v : Int)
  | printStr (bytes : List Byte)
  | dumpRegs (x : Vector Word 32)
  | inputRead (v : Word)
  | unknownCall (n : Word)
  | loadFailed (k : LoadErr)
deriving DecidableEq, Repr

/-- Memory as the bytes written since the last reset, in strictly rising address order.  An address that is not listed has
no value here; `State.byteAt` gives what it reads as (log 6, log 7). -/
abbrev Memory := List Host.Cell

/-- The canonical form: addresses strictly rising. -/
abbrev Memory.wf (m : Memory) : Prop := m.Pairwise (fun c d => c.1 < d.1)

/-- The machine's state. -/
structure State where
  /-- The parameters of R9, which no step changes (log 3). -/
  params : Params
  /-- `x[0..31]` (R20); read and written through `getReg` and `setReg`, which hard-wire x0 (R21). -/
  regs : Vector Word 32
  /-- `pc` (R26): between steps, the address of the next instruction. -/
  pc : Word
  /-- `M` (R30). -/
  mem : Memory
  /-- `paused` (R31). -/
  paused : Bool
  /-- `step_req` (R31). -/
  stepReq : Bool
  /-- `ecall_pending` (R31). -/
  ecallPending : Bool
  /-- `exited` (R31). -/
  exited : Bool
  /-- `halt_reason` (R32). -/
  haltReason : HaltReason
  /-- What the Trace channel has carried, oldest first (R205, log 21). -/
  trace : List TraceEvent
  /-- What the Diag channel has carried, oldest first (R205, log 21). -/
  diag : List DiagEvent
  /-- The mask last written to the LED port (R206, log 22). -/
  led : Word
  /-- The button masks the coming iterations sample, next first; none listed: a free value (R195, U10, log 9). -/
  buttons : List Word
  /-- The values the coming switch reads give, next first; none listed: a free value (R195, R181, log 8). -/
  switches : List Word
  /-- The images the host supplies at the coming resets, next first; none listed: a free value (R207, R213, log 10). -/
  images : List (List Byte)
  /-- How many resets there have been: picks the free bytes of unwritten memory (R231, log 6) and the free image of the next
  reset (log 10). -/
  resetCount : Nat
  /-- How many free switch values have been drawn (log 8). -/
  freeSwitches : Nat
  /-- How many free button masks have been drawn (log 9). -/
  freeButtons : Nat
deriving DecidableEq, Repr

/-- Why a step can stop with a fault: for no reason.  The spec gives every fatal condition a resulting state (R192: Halted),
so each is a next state of the model, and nothing raises a fault (log 12; safe). -/
inductive Fault where
deriving DecidableEq, Repr

/-- Why a step can be refused. -/
inductive Refusal where
  /-- Raised by `exec`'s arm of an instruction that has no meaning yet; no arm raises it now.  Safe: the machine stops. -/
  | notModelled (mnemonic : String)
deriving DecidableEq, Repr

/-- What a step, or an instruction's meaning, answers. -/
abbrev Result := Host.Outcome State Fault Refusal

/-- The machine right after a successful reset (R35), with no image placed: the reference parameters, registers zero, flags
false, no halt reason, Running.  The entry point and the image's bytes come from an image (R226, R227); here there is none, so
pc is 0 and memory lists nothing (log 11).  `State.doReset` performs R229 with an image. -/
def State.reset : State where
  params := Params.reference
  regs := Vector.replicate 32 0#32
  pc := 0#32
  mem := []
  paused := false
  stepReq := false
  ecallPending := false
  exited := false
  haltReason := .none
  trace := []
  diag := []
  led := 0#32
  buttons := []
  switches := []
  images := []
  resetCount := 0
  freeSwitches := 0
  freeButtons := 0

end Sys2Proof.Machine
end

