-- ==== Sys2Proof/Machine/Flags.lean ====
section
/-! DEFINITION. The engine has no condition codes (R24): a comparison writes 0 or 1 into a register or decides a branch.  Those
comparisons are here, and the only flags there are, the run-control flags, as the run state they stand for (R194). -/

namespace Sys2Proof.Machine

/-- `signed(a) < signed(b)` (R11, R113, R137, R154). -/
def ltSigned (a b : Word) : Bool := decide (a.toInt < b.toInt)

/-- `unsigned(a) < unsigned(b)` (R11, R115, R138, R155). -/
def ltUnsigned (a b : Word) : Bool := decide (a.toNat < b.toNat)

/-- The 1 or 0 a set-less-than writes (R135, R150). -/
def boolWord (b : Bool) : Word := if b then 1#32 else 0#32

/-- The three run states (R14, R194). -/
inductive RunState where
  | running
  | paused
  | halted
deriving DecidableEq, Repr

/-- R194: the run state as a function of the flags. -/
def State.runState (s : State) : RunState :=
  if s.exited then .halted else if s.paused then .paused else .running

/-- The numeric code of a fatal condition (R191). -/
def fatalCode : Fatal → Nat
  | .pcOutOfBounds _ => 2
  | .fetchOutOfRange _ => 3
  | .dataOutOfRange _ _ => 4
  | .reservedEncoding _ _ => 5
  | .misalignedPc _ => 6

/-- The numeric code of a load error (R191). -/
def loadErrCode : LoadErr → Nat
  | .badSize _ => 16
  | .badMagic => 17
  | .badType => 18
  | .badMachine => 19

/-- The numeric code of a halt reason (R191). -/
def haltCode : HaltReason → Nat
  | .none => 0
  | .exit => 1
  | .fatal f => fatalCode f
  | .loadError k => loadErrCode k

/-- The state is that of a fatal run-time halt (R192). -/
def State.faulted (s : State) : Bool :=
  s.exited && (match s.haltReason with
    | .fatal _ => true
    | .none => false
    | .exit => false
    | .loadError _ => false)

end Sys2Proof.Machine
end

