-- ==== Sys2Proof/Machine/Operands.lean ====
section
/-! DEFINITION. Operand forms: the sign and zero extensions of R11 and R44, the immediates of R68 to R73 as 32-bit values,
the target and effective-address sums (R105, R106, R110, R120). -/

namespace Sys2Proof.Machine

/-- `sext_8` of the low byte (R11, R44). -/
def sext8 (v : Word) : Word := (v.setWidth 8).signExtend 32
/-- `sext_16` of the low halfword (R11, R44). -/
def sext16 (v : Word) : Word := (v.setWidth 16).signExtend 32
/-- `zext_8` of the low byte (R11, R44). -/
def zext8 (v : Word) : Word := (v.setWidth 8).setWidth 32
/-- `zext_16` of the low halfword (R11, R44). -/
def zext16 (v : Word) : Word := (v.setWidth 16).setWidth 32

/-- `sext_12`: the I and S immediates (R68, R70). -/
def sext12 (imm : BitVec 12) : Word := imm.signExtend 32
/-- `sext_13`: the B immediate (R71). -/
def sext13 (imm : BitVec 13) : Word := imm.signExtend 32
/-- `sext_21`: the J immediate (R73). -/
def sext21 (imm : BitVec 21) : Word := imm.signExtend 32
/-- `imm_U` (R72): the field over twelve zero bits. -/
def immU (imm20 : BitVec 20) : Word := imm20 ++ 0#12

/-- The effective address of R120, modulo 2^32. -/
def effectiveAddress (base : Word) (imm : BitVec 12) : Word := base + sext12 imm

/-- The JALR target of R106: the sum with its low bit cleared. -/
def jalrTarget (base : Word) (imm : BitVec 12) : Word := (base + sext12 imm) &&& 0xFFFFFFFE#32

/-- The shift amount of a register shift: `x[rs2][4:0]` (R13, R150). -/
def shiftAmount (v : Word) : BitVec 5 := v.setWidth 5

end Sys2Proof.Machine
end

