-- ==== Sys2Proof/Machine/Ops.lean ====
section
/-! DEFINITION. The named operations over registers, memory, the run-control flags, inputs and outputs.  Every meaning is
written over these.  A meaning starts from a state whose pc is `cur`, the address of its own instruction (log 2). -/

namespace Sys2Proof.Machine

/-! ### Registers (R20, R21) -/

/-- Read a register; x0 reads as zero (R21). -/
def State.getReg (s : State) (r : RegIdx) : Word :=
  if r = 0#5 then 0#32 else s.regs[r.toNat]'r.isLt

/-- A register file after a write; a write to x0 is discarded (R21, R94). -/
def writeRegs (regs : Vector Word 32) (r : RegIdx) (v : Word) : Vector Word 32 :=
  if r = 0#5 then regs else regs.set r.toNat v r.isLt

/-- Write a register (R21). -/
def State.setReg (s : State) (r : RegIdx) (v : Word) : State :=
  { s with regs := writeRegs s.regs r v }

/-- x10, the register the syscall convention calls a0 (R175). -/
def regA0 : RegIdx := 10#5
/-- x11, a1 (R175). -/
def regA1 : RegIdx := 11#5

/-! ### The program counter (R26, R27, R29) -/

/-- Write pc. -/
def State.setPc (s : State) (target : Word) : State := { s with pc := target }

/-- `cur + 4`, modulo 2^32 (R29, R92). -/
def State.nextPc (s : State) : Word := s.pc + 4#32

/-- Leave pc at `cur + 4` (R27). -/
def State.advance (s : State) : State := s.setPc s.nextPc

/-! ### Memory (R41 to R44) -/

/-- The listed value of an address, if there is one. -/
def Memory.lookup : Memory → Nat → Option Byte
  | [], _ => none
  | (k, b) :: m, a => if k = a then some b else Memory.lookup m a

/-- Memory after one byte is written, in canonical form. -/
def Memory.insert : Memory → Nat → Byte → Memory
  | [], a, v => [(a, v)]
  | (k, b) :: m, a, v =>
    if a < k then (a, v) :: (k, b) :: m
    else if a = k then (a, v) :: m
    else (k, b) :: Memory.insert m a v

/-- Memory after bytes are written at `a`, `a + 1`, …, each address modulo 2^32 (R43). -/
def Memory.writeBytes : Memory → Word → List Byte → Memory
  | m, _, [] => m
  | m, a, b :: bs => Memory.writeBytes (m.insert a.toNat b) (a + 1#32) bs

/-- `M[a]`: the byte written there since the last reset, else the free byte of that reset and address (R231, log 6). -/
def State.byteAt (s : State) (a : Nat) : Byte :=
  match s.mem.lookup a with
  | some b => b
  | none => Config.freeByte s.resetCount a

/-- The address of byte `i` of an access at `a` (R41). -/
def byteAddr (a : Word) (i : Nat) : Nat := (a + BitVec.ofNat 32 i).toNat

/-- R41: the n-byte access at `a` is in range. -/
def State.inRange (s : State) (a : Word) (n : Nat) : Bool :=
  (List.range n).all fun i => decide (byteAddr a i < s.params.memSize)

/-- The bytes of an access, in address order (R41). -/
def State.bytesAt (s : State) (a : Word) (n : Nat) : List Byte :=
  (List.range n).map fun i => s.byteAt (byteAddr a i)

/-- `MemRead(a, n)` of an in-range access (R42), zero-extended to 32 bits. -/
def State.memRead (s : State) (a : Word) (n : Nat) : Word := leValue (s.bytesAt a n)

/-- `MemWrite(a, n, v)` of an in-range access (R43). -/
def State.memWrite (s : State) (a : Word) (n : Nat) (v : Word) : State :=
  { s with mem := s.mem.writeBytes a (leBytes n v) }

/-! ### Outputs (R205) -/

/-- `emit(Trace, e)`. -/
def State.emitTrace (s : State) (e : TraceEvent) : State := { s with trace := s.trace ++ [e] }

/-- `emit(Diag, e)`. -/
def State.emitDiag (s : State) (e : DiagEvent) : State := { s with diag := s.diag ++ [e] }

/-! ### Run-control flags (R31) -/

/-- Write `ecall_pending` (R165, R176). -/
def State.setEcallPending (s : State) (b : Bool) : State := { s with ecallPending := b }

/-- Write `paused` (R166). -/
def State.setPaused (s : State) (b : Bool) : State := { s with paused := b }

/-- Set `exited` and record why (R177, R192). -/
def State.setHalted (s : State) (reason : HaltReason) : State := { s with exited := true, haltReason := reason }

/-! ### The fatal halt (R97, R192): the machine's one exception operation -/

/-- `raise Fault(f)` from the state before the instruction had any effect: registers, memory and pc stay (R97), the engine is
Halted with the reason recorded, and the report is emitted (R192).  There is no return but a reset (R190, R197). -/
def State.raise (s : State) (f : Fatal) : State :=
  ((s.setEcallPending false).setHalted (.fatal f)).emitTrace (.fatalReport f)

/-! ### Inputs (R195, R207) -/

/-- `ButtonRead()`: the mask this iteration samples: the next listed one, else a free value (R195, log 9). -/
def State.buttonSample (s : State) : Word := s.buttons.headD (Config.freeButtons s.freeButtons)

/-- `ButtonAck()`: the captured edges are cleared, and the mask is used up. -/
def State.ackButtons (s : State) : State :=
  { s with
    buttons := s.buttons.tail
    freeButtons := if s.buttons.isEmpty then s.freeButtons + 1 else s.freeButtons }

/-- The value the next `SwitchRead()` gives: the next listed one, else a free value (log 8). -/
def State.switchSample (s : State) : Word := s.switches.headD (Config.freeSwitch s.freeSwitches)

/-- What a `SwitchRead()` uses up. -/
def State.takeSwitch (s : State) : State :=
  { s with
    switches := s.switches.tail
    freeSwitches := if s.switches.isEmpty then s.freeSwitches + 1 else s.freeSwitches }

/-- `LedWrite(SwitchRead())` (R206). -/
def State.refreshLed (s : State) : State := { s.takeSwitch with led := s.switchSample }

/-- The image the host supplies at the next reset: the next listed one, else a free value (R213, log 10). -/
def State.nextImage (s : State) : List Byte := s.images.headD (Config.freeImage s.resetCount)

/-! ### Shared shapes of the instructions -/

/-- A register result with pc at `cur + 4` (R100, R101, R135, R150). -/
def State.writeResult (s : State) (rd : RegIdx) (v : Word) : State := (s.setReg rd v).advance

/-- Link and jump (R105, R106): rd gets `cur + 4`, pc the target. -/
def State.jumpLink (s : State) (rd : RegIdx) (target : Word) : State := (s.setReg rd s.nextPc).setPc target

/-- A conditional branch (R110). -/
def State.branchIf (s : State) (taken : Bool) (offset : BitVec 13) : State :=
  s.setPc (if taken then s.pc + sext13 offset else s.nextPc)

/-- A load of `n` bytes (R120 to R125): out of range it halts and does nothing else (R47); the range check is made whatever
rd is (R121, D32). -/
def State.load (s : State) (rd : RegIdx) (ea : Word) (n : Nat) (extend : Word → Word) : State :=
  if s.inRange ea n then s.writeResult rd (extend (s.memRead ea n)) else s.raise (.dataOutOfRange ea s.pc)

/-- A store of the low `n` bytes of `v` (R120, R126 to R128). -/
def State.store (s : State) (ea : Word) (n : Nat) (v : Word) : State :=
  if s.inRange ea n then (s.memWrite ea n v).advance else s.raise (.dataOutOfRange ea s.pc)

end Sys2Proof.Machine
end

