-- ==== Sys2Proof/Machine/Branches.lean ====
section
/-! DEFINITION. The six conditional branches (43_branches.md), over the one pattern of R110. -/

namespace Sys2Proof.Machine

/-- R111: taken when `a = b`. -/
def execBeq (rs1 rs2 : RegIdx) (offset : BitVec 13) (s : State) : Result :=
  .next (s.branchIf (decide (s.getReg rs1 = s.getReg rs2)) offset)

/-- R112: taken when `a ≠ b`. -/
def execBne (rs1 rs2 : RegIdx) (offset : BitVec 13) (s : State) : Result :=
  .next (s.branchIf (decide (s.getReg rs1 ≠ s.getReg rs2)) offset)

/-- R113: taken when `signed(a) < signed(b)`. -/
def execBlt (rs1 rs2 : RegIdx) (offset : BitVec 13) (s : State) : Result :=
  .next (s.branchIf (ltSigned (s.getReg rs1) (s.getReg rs2)) offset)

/-- R114: taken when `signed(a) ≥ signed(b)`. -/
def execBge (rs1 rs2 : RegIdx) (offset : BitVec 13) (s : State) : Result :=
  .next (s.branchIf (!ltSigned (s.getReg rs1) (s.getReg rs2)) offset)

/-- R115: taken when `unsigned(a) < unsigned(b)`. -/
def execBltu (rs1 rs2 : RegIdx) (offset : BitVec 13) (s : State) : Result :=
  .next (s.branchIf (ltUnsigned (s.getReg rs1) (s.getReg rs2)) offset)

/-- R116: taken when `unsigned(a) ≥ unsigned(b)`. -/
def execBgeu (rs1 rs2 : RegIdx) (offset : BitVec 13) (s : State) : Result :=
  .next (s.branchIf (!ltUnsigned (s.getReg rs1) (s.getReg rs2)) offset)

end Sys2Proof.Machine
end

