-- ==== Sys2Proof/Machine/Jumps.lean ====
section
/-! DEFINITION. JAL and JALR (42_jumps.md).  A target is written to pc with no check (R107). -/

namespace Sys2Proof.Machine

/-- R105: `x[rd] <- cur + 4; pc <- cur + imm_J`. -/
def execJal (rd : RegIdx) (offset : BitVec 21) (s : State) : Result :=
  .next (s.jumpLink rd (s.pc + sext21 offset))

/-- R106: `t <- (x[rs1] + imm_I) & ~1; x[rd] <- cur + 4; pc <- t`; x[rs1] is read first (R93). -/
def execJalr (rd rs1 : RegIdx) (imm : BitVec 12) (s : State) : Result :=
  .next (s.jumpLink rd (jalrTarget (s.getReg rs1) imm))

end Sys2Proof.Machine
end

