-- ==== Sys2Proof/Machine/LoadsStores.lean ====
section
/-! DEFINITION. Loads and stores (44_loads_stores.md), over the load and the store of Ops. -/

namespace Sys2Proof.Machine

/-- R121: `x[rd] <- sext_8(MemRead(ea, 1))`. -/
def execLb (rd rs1 : RegIdx) (imm : BitVec 12) (s : State) : Result :=
  .next (s.load rd (effectiveAddress (s.getReg rs1) imm) 1 sext8)

/-- R122: `x[rd] <- sext_16(MemRead(ea, 2))`. -/
def execLh (rd rs1 : RegIdx) (imm : BitVec 12) (s : State) : Result :=
  .next (s.load rd (effectiveAddress (s.getReg rs1) imm) 2 sext16)

/-- R123: `x[rd] <- MemRead(ea, 4)`. -/
def execLw (rd rs1 : RegIdx) (imm : BitVec 12) (s : State) : Result :=
  .next (s.load rd (effectiveAddress (s.getReg rs1) imm) 4 id)

/-- R124: `x[rd] <- zext_8(MemRead(ea, 1))`. -/
def execLbu (rd rs1 : RegIdx) (imm : BitVec 12) (s : State) : Result :=
  .next (s.load rd (effectiveAddress (s.getReg rs1) imm) 1 zext8)

/-- R125: `x[rd] <- zext_16(MemRead(ea, 2))`. -/
def execLhu (rd rs1 : RegIdx) (imm : BitVec 12) (s : State) : Result :=
  .next (s.load rd (effectiveAddress (s.getReg rs1) imm) 2 zext16)

/-- R126: `MemWrite(ea, 1, x[rs2][7:0])`. -/
def execSb (rs1 rs2 : RegIdx) (imm : BitVec 12) (s : State) : Result :=
  .next (s.store (effectiveAddress (s.getReg rs1) imm) 1 (s.getReg rs2))

/-- R127: `MemWrite(ea, 2, x[rs2][15:0])`. -/
def execSh (rs1 rs2 : RegIdx) (imm : BitVec 12) (s : State) : Result :=
  .next (s.store (effectiveAddress (s.getReg rs1) imm) 2 (s.getReg rs2))

/-- R128: `MemWrite(ea, 4, x[rs2])`. -/
def execSw (rs1 rs2 : RegIdx) (imm : BitVec 12) (s : State) : Result :=
  .next (s.store (effectiveAddress (s.getReg rs1) imm) 4 (s.getReg rs2))

end Sys2Proof.Machine
end

