-- ==== Sys2Proof/Machine/OpImm.lean ====
section
/-! DEFINITION. Register-immediate operations (45_op_imm.md). -/

namespace Sys2Proof.Machine

/-- R136: `x[rs1] + imm_I`, modulo 2^32. -/
def execAddi (rd rs1 : RegIdx) (imm : BitVec 12) (s : State) : Result :=
  .next (s.writeResult rd (s.getReg rs1 + sext12 imm))

/-- R137: 1 if `signed(x[rs1]) < signed(imm_I)`, else 0. -/
def execSlti (rd rs1 : RegIdx) (imm : BitVec 12) (s : State) : Result :=
  .next (s.writeResult rd (boolWord (ltSigned (s.getReg rs1) (sext12 imm))))

/-- R138: 1 if `unsigned(x[rs1]) < unsigned(imm_I)`, else 0; the immediate is sign-extended first. -/
def execSltiu (rd rs1 : RegIdx) (imm : BitVec 12) (s : State) : Result :=
  .next (s.writeResult rd (boolWord (ltUnsigned (s.getReg rs1) (sext12 imm))))

/-- R139: `x[rs1] ^ imm_I`. -/
def execXori (rd rs1 : RegIdx) (imm : BitVec 12) (s : State) : Result :=
  .next (s.writeResult rd (s.getReg rs1 ^^^ sext12 imm))

/-- R140: `x[rs1] | imm_I`. -/
def execOri (rd rs1 : RegIdx) (imm : BitVec 12) (s : State) : Result :=
  .next (s.writeResult rd (s.getReg rs1 ||| sext12 imm))

/-- R141: `x[rs1] & imm_I`. -/
def execAndi (rd rs1 : RegIdx) (imm : BitVec 12) (s : State) : Result :=
  .next (s.writeResult rd (s.getReg rs1 &&& sext12 imm))

/-- R142: `x[rs1] << shamt`. -/
def execSlli (rd rs1 : RegIdx) (shamt : BitVec 5) (s : State) : Result :=
  .next (s.writeResult rd (s.getReg rs1 <<< shamt.toNat))

/-- R143: `x[rs1] >>u shamt`. -/
def execSrli (rd rs1 : RegIdx) (shamt : BitVec 5) (s : State) : Result :=
  .next (s.writeResult rd (s.getReg rs1 >>> shamt.toNat))

/-- R144: `x[rs1] >>s shamt`. -/
def execSrai (rd rs1 : RegIdx) (shamt : BitVec 5) (s : State) : Result :=
  .next (s.writeResult rd ((s.getReg rs1).sshiftRight shamt.toNat))

end Sys2Proof.Machine
end

