-- ==== Sys2Proof/Machine/OpReg.lean ====
section
/-! DEFINITION. Register-register operations (46_op.md). -/

namespace Sys2Proof.Machine

/-- R151: `x[rs1] + x[rs2]`, modulo 2^32. -/
def execAdd (rd rs1 rs2 : RegIdx) (s : State) : Result :=
  .next (s.writeResult rd (s.getReg rs1 + s.getReg rs2))

/-- R152: `x[rs1] - x[rs2]`, modulo 2^32. -/
def execSub (rd rs1 rs2 : RegIdx) (s : State) : Result :=
  .next (s.writeResult rd (s.getReg rs1 - s.getReg rs2))

/-- R153: `x[rs1] << x[rs2][4:0]`. -/
def execSll (rd rs1 rs2 : RegIdx) (s : State) : Result :=
  .next (s.writeResult rd (s.getReg rs1 <<< (shiftAmount (s.getReg rs2)).toNat))

/-- R154: 1 if `signed(x[rs1]) < signed(x[rs2])`, else 0. -/
def execSlt (rd rs1 rs2 : RegIdx) (s : State) : Result :=
  .next (s.writeResult rd (boolWord (ltSigned (s.getReg rs1) (s.getReg rs2))))

/-- R155: 1 if `unsigned(x[rs1]) < unsigned(x[rs2])`, else 0. -/
def execSltu (rd rs1 rs2 : RegIdx) (s : State) : Result :=
  .next (s.writeResult rd (boolWord (ltUnsigned (s.getReg rs1) (s.getReg rs2))))

/-- R156: `x[rs1] ^ x[rs2]`. -/
def execXor (rd rs1 rs2 : RegIdx) (s : State) : Result :=
  .next (s.writeResult rd (s.getReg rs1 ^^^ s.getReg rs2))

/-- R157: `x[rs1] >>u x[rs2][4:0]`. -/
def execSrl (rd rs1 rs2 : RegIdx) (s : State) : Result :=
  .next (s.writeResult rd (s.getReg rs1 >>> (shiftAmount (s.getReg rs2)).toNat))

/-- R158: `x[rs1] >>s x[rs2][4:0]`. -/
def execSra (rd rs1 rs2 : RegIdx) (s : State) : Result :=
  .next (s.writeResult rd ((s.getReg rs1).sshiftRight (shiftAmount (s.getReg rs2)).toNat))

/-- R159: `x[rs1] | x[rs2]`. -/
def execOr (rd rs1 rs2 : RegIdx) (s : State) : Result :=
  .next (s.writeResult rd (s.getReg rs1 ||| s.getReg rs2))

/-- R160: `x[rs1] & x[rs2]`. -/
def execAnd (rd rs1 rs2 : RegIdx) (s : State) : Result :=
  .next (s.writeResult rd (s.getReg rs1 &&& s.getReg rs2))

end Sys2Proof.Machine
end

