-- ==== Sys2Proof/Machine/Syscalls.lean ====
section
/-! DEFINITION. The syscall handler (48_syscalls.md).  It runs inside the step of an ECALL (R95). -/

namespace Sys2Proof.Machine

/-- The string loop of R179, with at most `n` bytes left to read: the bytes before the first zero, or the address of the
first byte out of range. -/
def State.readString (s : State) : Nat → Word → Except Word (List Byte)
  | 0, _ => .ok []
  | n + 1, a =>
    if s.inRange a 1 then
      if s.byteAt a.toNat = 0#8 then .ok []
      else
        match s.readString n (a + 1#32) with
        | .ok bs => .ok (s.byteAt a.toNat :: bs)
        | .error ea => .error ea
    else .error a

/-- Call 0, exit (R177, R202). -/
def State.callExit (s : State) : State :=
  (s.setHalted .exit).emitDiag .exitCall

/-- Call 100, print integer (R178). -/
def State.callPrintInt (s : State) (arg : Word) : State := s.emitDiag (.printInt arg.toInt)

/-- Call 101, print string (R179); a byte out of range halts with pc back at `cur`, the ECALL's address (R97). -/
def State.callPrintStr (s : State) (cur arg : Word) : State :=
  match s.readString s.params.strMax arg with
  | .ok bytes => s.emitDiag (.printStr bytes)
  | .error ea => (s.setPc cur).raise (.dataOutOfRange ea cur)

/-- Call 103, dump registers: x0 to x31, not pc (R180, D27). -/
def State.callDumpRegs (s : State) : State :=
  s.emitDiag (.dumpRegs (Vector.ofFn fun i : Fin 32 => s.getReg (BitVec.ofNat 5 i.val)))

/-- Call 200, read input: the value goes to x10 (R181). -/
def State.callReadInput (s : State) : State :=
  (s.takeSwitch.setReg regA0 s.switchSample).emitDiag (.inputRead s.switchSample)

/-- Any other call (R182). -/
def State.callUnknown (s : State) (n : Word) : State := s.emitDiag (.unknownCall n)

/-- The choice of R176 by `n = x[10]`, compared as an unsigned value (R175, D26). -/
def State.dispatchCall (s : State) (cur n arg : Word) : State :=
  if n = 0#32 then s.callExit
  else if n = 100#32 then s.callPrintInt arg
  else if n = 101#32 then s.callPrintStr cur arg
  else if n = 103#32 then s.callDumpRegs
  else if n = 200#32 then s.callReadInput
  else s.callUnknown n

/-- `Syscall()` (R176): serve the call and clear the pending flag on every path.  `cur` is the ECALL's address. -/
def State.syscall (s : State) (cur : Word) : State :=
  (s.dispatchCall cur (s.getReg regA0) (s.getReg regA1)).setEcallPending false

end Sys2Proof.Machine
end

