-- ==== Sys2Proof/Machine/System.lean ====
section
/-! DEFINITION. ECALL, EBREAK and MISC-MEM, and what an unknown or a reserved word does (47_system_misc.md). -/

namespace Sys2Proof.Machine

/-- R165, R95: ECALL sets `ecall_pending`, leaves pc at `cur + 4`, and the handler runs in the same step (log 23). -/
def execEcall (s : State) : Result :=
  .next ((s.setEcallPending true).advance.syscall s.pc)

/-- R166: EBREAK sets `paused`. -/
def execEbreak (s : State) : Result :=
  .next (s.setPaused true).advance

/-- R167: every MISC-MEM word is a no-op on state. -/
def execFence (s : State) : Result :=
  .next s.advance

/-- R168: an unknown opcode is a no-op on state. -/
def State.runUnknown (s : State) : State := s.advance

/-- R169: a reserved encoding, by RESERVED_POLICY. -/
def State.runReserved (s : State) (w : Word) : State :=
  match s.params.reserved with
  | .softNop => s.advance
  | .fault => s.raise (.reservedEncoding w s.pc)

end Sys2Proof.Machine
end

