-- ==== Sys2Proof/Machine/Upper.lean ====
section
/-! DEFINITION. LUI and AUIPC (41_upper_immediate.md). -/

namespace Sys2Proof.Machine

/-- R100: `x[rd] <- imm_U`. -/
def execLui (rd : RegIdx) (imm20 : BitVec 20) (s : State) : Result :=
  .next (s.writeResult rd (immU imm20))

/-- R101: `x[rd] <- cur + imm_U`; the base is the address of the AUIPC itself. -/
def execAuipc (rd : RegIdx) (imm20 : BitVec 20) (s : State) : Result :=
  .next (s.writeResult rd (s.pc + immU imm20))

end Sys2Proof.Machine
end

