-- ==== Sys2Proof/Machine/Loader.lean ====
section
/-! DEFINITION. The image loader and reset (70_reset_and_hazards.md). -/

namespace Sys2Proof.Machine

/-- The 32-bit little-endian field at an offset of the image. -/
def imageU32 (image : List Byte) (offset : Nat) : Word := leValue ((image.drop offset).take 4)

/-- The 16-bit little-endian field at an offset of the image. -/
def imageU16 (image : List Byte) (offset : Nat) : BitVec 16 := (leValue ((image.drop offset).take 2)).setWidth 16

/-- `load(image)` (R220 to R227): the checks in the order size, magic, type, machine, then the entry point. -/
def loadImage (p : Params) (image : List Byte) : Except LoadErr Word :=
  if ¬ (Config.hdrMin < image.length ∧ image.length < p.memSize) then .error (.badSize image.length)
  else if imageU32 image 0 ≠ p.magic0 ∨ imageU32 image 4 ≠ p.magic1 then .error .badMagic
  else if imageU16 image p.offType ≠ p.typeExec then .error .badType
  else if imageU16 image p.offMachine ≠ p.machineId then .error .badMachine
  else .ok (imageU32 image p.offEntry)

/-- The bytes of an image as memory cells from an address on. -/
def cellsFrom : Nat → List Byte → Memory
  | _, [] => []
  | a, b :: bs => (a, b) :: cellsFrom (a + 1) bs

/-- What every reset does first (R229): the next image is taken, registers and flags are cleared, and the bytes nothing
writes are free anew (R231).  Peripherals and what they were sent are left alone (R230). -/
def State.clearForReset (s : State) : State :=
  { s with
    images := s.images.tail
    regs := Vector.replicate 32 0#32
    paused := false
    stepReq := false
    ecallPending := false
    resetCount := s.resetCount + 1 }

/-- The state after a good load (R35, R226, R227, R229). -/
def State.afterLoad (s : State) (image : List Byte) (entry : Word) : State :=
  { s.clearForReset with mem := cellsFrom 0 image, pc := entry, exited := false, haltReason := .none }

/-- The state after a failed load (R228); memory is unspecified, so nothing is listed (U7). -/
def State.afterFailedLoad (s : State) (k : LoadErr) : State :=
  { s.clearForReset with
    mem := []
    pc := 0#32
    exited := true
    haltReason := .loadError k
    diag := s.diag ++ [.loadFailed k] }

/-- `Reset()` (R197, R229): the loader on the image the host supplies, and a fresh state. -/
def State.doReset (s : State) : State :=
  match loadImage s.params s.nextImage with
  | .ok entry => s.afterLoad s.nextImage entry
  | .error k => s.afterFailedLoad k

end Sys2Proof.Machine
end

