-- ==== Sys2Proof/Machine/RunControl.lean ====
section
/-! DEFINITION. The fetch-decode-execute step (40_execution_cycle.md) and the iteration of the run-control loop (60_exceptions.md). -/

namespace Sys2Proof.Machine

/-- Continue from a next state; a fault or a refusal stays as it is. -/
def onNext (r : Result) (f : State → State) : Result :=
  match r with
  | .next s => .next (f s)
  | .fault x => .fault x
  | .refused x => .refused x

/-! ### The step (R90) -/

/-- The checks before a fetch, in the order of R90 and R203. -/
def State.fetchFatal (s : State) : Option Fatal :=
  if s.params.memSize ≤ s.pc.toNat then some (.pcOutOfBounds s.pc)
  else if s.params.misalignedPc = .fault ∧ s.pc.extractLsb' 0 2 ≠ 0#2 then some (.misalignedPc s.pc)
  else if !s.inRange s.pc 4 then some (.fetchOutOfRange s.pc)
  else none

/-- The word at pc (R46, R92). -/
def State.fetchWord (s : State) : Word := s.memRead s.pc 4

/-- `Execute(d)` (R90), for whatever the word decoded to (R82). -/
def execDecoded (d : Decoded) (w : Word) (s : State) : Result :=
  match d with
  | .instr i => exec i s
  | .unknown => .next s.runUnknown
  | .reserved => .next (s.runReserved w)

/-- Which trace line a completed step emits (R96). -/
def traceLineOf : Decoded → TraceLine
  | .instr .fence => .unsupported
  | .instr _ => .plain
  | .unknown => .unknown
  | .reserved => .unknown

/-- The end of a step: a completed one emits its trace event, a faulted one has emitted its report already (R96, D31). -/
def State.retire (s : State) (cur w : Word) (d : Decoded) : State :=
  if s.faulted then s else s.emitTrace (.executed cur w d (traceLineOf d))

/-- `Step()` (R90). -/
def State.engineStep (s : State) : Result :=
  match s.fetchFatal with
  | some f => .next (s.raise f)
  | none =>
    onNext (execDecoded (decode s.fetchWord) s.fetchWord s)
      (fun t => t.retire s.pc s.fetchWord (decode s.fetchWord))

/-! ### The iteration (R196) -/

/-- Bit 0 of the button mask: a step request (R195). -/
def stepBit (b : Word) : Bool := b.getLsbD 0
/-- Bit 1: the pause/continue toggle (R195). -/
def toggleBit (b : Word) : Bool := b.getLsbD 1
/-- Bit 3: a reset request (R195). -/
def resetBit (b : Word) : Bool := b.getLsbD 3

/-- What an iteration does to the peripherals whatever follows: sample and acknowledge the buttons, refresh the LED mirror. -/
def State.poll (s : State) : State := s.ackButtons.refreshLed

/-- The toggle, then the step request; both are ignored while Halted (R198, R199). -/
def State.applySignals (s : State) (b : Word) : State :=
  { s with
    paused := s.paused ^^ (toggleBit b && !s.exited)
    stepReq := s.stepReq || (stepBit b && !s.exited) }

/-- Whether the loop executes a step (R196, R200). -/
def State.mayStep (s : State) : Bool := !s.exited && (!s.paused || s.stepReq)

/-- `step_req <- false`, after the step (R196). -/
def State.clearStepReq (s : State) : State := { s with stepReq := false }

/-- `Iteration()` (R196). -/
def State.iterate (s : State) : Result :=
  if resetBit s.buttonSample then .next s.poll.doReset
  else if (s.poll.applySignals s.buttonSample).mayStep then
    onNext (s.poll.applySignals s.buttonSample).engineStep State.clearStepReq
  else .next (s.poll.applySignals s.buttonSample)

/-! ### Placing an instruction for the next step -/

/-- The state with `w` stored where the next step fetches, and nothing in the way of that step: no edge in the coming button
mask, not Halted, not Paused, and a pc at which a word can be fetched (0 where there was none).  Stands for a load from outside
the machine (log 11). -/
def State.placeWord (s : State) (w : Word) : State :=
  let t := { s with
    buttons := 0#32 :: s.buttons.tail
    paused := false
    exited := false
    haltReason := .none
    pc := (if s.fetchFatal.isNone then s.pc else 0#32) }
  t.memWrite t.pc 4 w

end Sys2Proof.Machine
end

