-- ==== Sys2Proof/Machine/Step.lean ====
section
/-! DEFINITION. One step of the model is one iteration of the run-control loop (R7, R196; log 1). -/

namespace Sys2Proof.Machine

/-- One iteration (R196): at most one instruction. -/
def step (s : State) : Host.Outcome State Fault Refusal := s.iterate

/-- The state with the instruction of `nbits` bits stored where `step` fetches next, every bit above `nbits` zero. -/
def State.withFetchWord (s : State) (nbits w : Nat) : State :=
  s.placeWord (BitVec.ofNat 32 (w % 2 ^ nbits))

end Sys2Proof.Machine
end

