-- ==== Sys2Proof/Safety.lean ====
section
/-! DEFINITION. The terms claims use: the invariant of the machine, what a fatal halt is, how a run can have ended (R214), and
what an instruction may write. -/

namespace Sys2Proof.Machine

/-! ### The invariant -/

/-- What every state between iterations satisfies: legal parameters (R9), canonical memory inside 0..MEM_SIZE-1 (R30), the x0
slot zero (R21), no call pending and no step request left over (R33, R199), and a halt reason exactly when Halted (R32). -/
structure State.Inv (s : State) : Prop where
  paramsLegal : s.params.wf
  memCanonical : s.mem.wf
  memInside : ∀ c ∈ s.mem, c.1 < s.params.memSize
  x0Slot : s.regs[0] = 0#32
  noPendingCall : s.ecallPending = false
  noStepRequest : s.stepReq = false
  reasonIffExited : s.exited = true ↔ s.haltReason ≠ .none

/-! ### How a run ended (R214) -/

/-- A clean exit (R214). -/
def State.cleanExit (s : State) : Prop := s.exited = true ∧ s.haltReason = .exit
/-- Ended by a fault (R214). -/
def State.fatalHalt (s : State) : Prop := s.exited = true ∧ ∃ f, s.haltReason = .fatal f
/-- A refused start (R214). -/
def State.refusedStart (s : State) : Prop := s.exited = true ∧ ∃ k, s.haltReason = .loadError k

/-! ### What stays the same -/

/-- Every register reads as before. -/
def SameRegs (s t : State) : Prop := ∀ r, t.getReg r = s.getReg r

/-- Every byte of memory reads as before. -/
def SameMem (s t : State) : Prop := ∀ a, t.byteAt a = s.byteAt a

/-- Every byte outside the `n`-byte access at `ea` reads as before. -/
def SameMemOutside (s t : State) (ea : Word) (n : Nat) : Prop :=
  ∀ a, (∀ k, k < n → byteAddr ea k ≠ a) → t.byteAt a = s.byteAt a

/-- The run-control flags and the halt reason stay. -/
def SameControl (s t : State) : Prop :=
  t.paused = s.paused ∧ t.stepReq = s.stepReq ∧ t.ecallPending = s.ecallPending ∧ t.exited = s.exited ∧
  t.haltReason = s.haltReason

/-- Parameters, inputs and the model's counters stay, and so does the LED port. -/
def SameInputs (s t : State) : Prop :=
  t.params = s.params ∧ t.buttons = s.buttons ∧ t.switches = s.switches ∧ t.images = s.images ∧
  t.resetCount = s.resetCount ∧ t.freeSwitches = s.freeSwitches ∧ t.freeButtons = s.freeButtons ∧ t.led = s.led

/-- Neither channel has carried anything more. -/
def SameOutputs (s t : State) : Prop := t.trace = s.trace ∧ t.diag = s.diag

/-! ### What an instruction does -/

/-- The instruction completes with `v` in `rd` and pc at `cur + 4`, and leaves everything else alone; with rd = x0 the value is
discarded (R21, R87). -/
def WritesRegister (i : Instr) (s : State) (rd : RegIdx) (v : Word) : Prop :=
  ∃ t, exec i s = .next t ∧
    (rd ≠ 0#5 → t.getReg rd = v) ∧ t.getReg 0#5 = 0#32 ∧ (∀ r, r ≠ rd → t.getReg r = s.getReg r) ∧
    t.pc = s.pc + 4#32 ∧ SameMem s t ∧ SameControl s t ∧ SameInputs s t ∧ SameOutputs s t

/-- The instruction completes with `link` in `rd` and pc at `target`, and leaves everything else alone. -/
def LinksAndJumps (i : Instr) (s : State) (rd : RegIdx) (link target : Word) : Prop :=
  ∃ t, exec i s = .next t ∧
    (rd ≠ 0#5 → t.getReg rd = link) ∧ t.getReg 0#5 = 0#32 ∧ (∀ r, r ≠ rd → t.getReg r = s.getReg r) ∧
    t.pc = target ∧ SameMem s t ∧ SameControl s t ∧ SameInputs s t ∧ SameOutputs s t

/-- The instruction completes, moves pc to `target`, and leaves everything else alone. -/
def OnlyMovesPc (i : Instr) (s : State) (target : Word) : Prop :=
  ∃ t, exec i s = .next t ∧
    t.pc = target ∧ SameRegs s t ∧ SameMem s t ∧ SameControl s t ∧ SameInputs s t ∧ SameOutputs s t

/-- The instruction completes, stores the low `n` bytes of `v` at `ea`, least significant first, leaves pc at `cur + 4` and
leaves everything else alone. -/
def StoresBytes (i : Instr) (s : State) (ea : Word) (n : Nat) (v : Word) : Prop :=
  ∃ t, exec i s = .next t ∧
    (∀ k, k < n → (t.byteAt (byteAddr ea k)).toNat = v.toNat / 256 ^ k % 256) ∧ SameMemOutside s t ea n ∧
    t.pc = s.pc + 4#32 ∧ SameRegs s t ∧ SameControl s t ∧ SameInputs s t ∧ SameOutputs s t

/-- `t` is the fatal halt of `s` with reason `f`: Halted, the reason and the report recorded, no call pending, and every
register, byte, pc and other flag as before (R97, R192). -/
def FatalHaltOf (s t : State) (f : Fatal) : Prop :=
  t.exited = true ∧ t.haltReason = .fatal f ∧ t.ecallPending = false ∧ t.trace = s.trace ++ [.fatalReport f] ∧
  t.pc = s.pc ∧ SameRegs s t ∧ SameMem s t ∧ t.paused = s.paused ∧ t.stepReq = s.stepReq ∧ t.diag = s.diag ∧ SameInputs s t

/-- The access at `a` of `n` bytes lies inside memory (R41). -/
def AccessInside (s : State) (a : Word) (n : Nat) : Prop := ∀ k, k < n → byteAddr a k < s.params.memSize

/-- A load that completes with `v` in `rd` where its access is inside memory, and halts with no effect where it is not (R47). -/
def LoadsOrHalts (i : Instr) (s : State) (rd : RegIdx) (ea : Word) (n : Nat) (v : Word) : Prop :=
  (AccessInside s ea n → WritesRegister i s rd v) ∧
  (¬ AccessInside s ea n → ∃ t, exec i s = .next t ∧ FatalHaltOf s t (.dataOutOfRange ea s.pc))

/-- A store, likewise (R43, R47). -/
def StoresOrHalts (i : Instr) (s : State) (ea : Word) (n : Nat) (v : Word) : Prop :=
  (AccessInside s ea n → StoresBytes i s ea n v) ∧
  (¬ AccessInside s ea n → ∃ t, exec i s = .next t ∧ FatalHaltOf s t (.dataOutOfRange ea s.pc))

/-- An ECALL that completes with one Diag event and no other effect than pc at `cur + 4` and no call pending (R176, R183). -/
def CallOnlyEmits (s : State) (e : DiagEvent) : Prop :=
  ∃ t, exec .ecall s = .next t ∧
    t.diag = s.diag ++ [e] ∧ t.trace = s.trace ∧ t.pc = s.pc + 4#32 ∧ t.ecallPending = false ∧
    SameRegs s t ∧ SameMem s t ∧ t.paused = s.paused ∧ t.stepReq = s.stepReq ∧ t.exited = s.exited ∧
    t.haltReason = s.haltReason ∧ SameInputs s t

/-! ### What an instruction may write -/

/-- The register field an instruction writes, for the classes R23 lists. -/
def destinationOf : Instr → Option RegIdx
  | .lui rd _ | .auipc rd _ | .jal rd _ | .jalr rd _ _
  | .lb rd _ _ | .lh rd _ _ | .lw rd _ _ | .lbu rd _ _ | .lhu rd _ _
  | .addi rd _ _ | .slti rd _ _ | .sltiu rd _ _ | .xori rd _ _ | .ori rd _ _ | .andi rd _ _
  | .slli rd _ _ | .srli rd _ _ | .srai rd _ _
  | .add rd _ _ | .sub rd _ _ | .sll rd _ _ | .slt rd _ _ | .sltu rd _ _ | .xor rd _ _
  | .srl rd _ _ | .sra rd _ _ | .or rd _ _ | .and rd _ _ => some rd
  | .beq _ _ _ | .bne _ _ _ | .blt _ _ _ | .bge _ _ _ | .bltu _ _ _ | .bgeu _ _ _
  | .sb _ _ _ | .sh _ _ _ | .sw _ _ _ | .ecall | .ebreak | .fence => none

/-- The address and width a store writes; nothing for every other instruction (R50, R120). -/
def storeTargetOf (s : State) : Instr → Option (Word × Nat)
  | .sb rs1 _ imm => some (effectiveAddress (s.getReg rs1) imm, 1)
  | .sh rs1 _ imm => some (effectiveAddress (s.getReg rs1) imm, 2)
  | .sw rs1 _ imm => some (effectiveAddress (s.getReg rs1) imm, 4)
  | .lui _ _ | .auipc _ _ | .jal _ _ | .jalr _ _ _
  | .beq _ _ _ | .bne _ _ _ | .blt _ _ _ | .bge _ _ _ | .bltu _ _ _ | .bgeu _ _ _
  | .lb _ _ _ | .lh _ _ _ | .lw _ _ _ | .lbu _ _ _ | .lhu _ _ _
  | .addi _ _ _ | .slti _ _ _ | .sltiu _ _ _ | .xori _ _ _ | .ori _ _ _ | .andi _ _ _
  | .slli _ _ _ | .srli _ _ _ | .srai _ _ _
  | .add _ _ _ | .sub _ _ _ | .sll _ _ _ | .slt _ _ _ | .sltu _ _ _ | .xor _ _ _
  | .srl _ _ _ | .sra _ _ _ | .or _ _ _ | .and _ _ _ | .ecall | .ebreak | .fence => none

/-- The control-transferring instructions: JAL, JALR and the branches (R27). -/
def transfersControl : Instr → Bool
  | .jal _ _ | .jalr _ _ _
  | .beq _ _ _ | .bne _ _ _ | .blt _ _ _ | .bge _ _ _ | .bltu _ _ _ | .bgeu _ _ _ => true
  | .lui _ _ | .auipc _ _
  | .lb _ _ _ | .lh _ _ _ | .lw _ _ _ | .lbu _ _ _ | .lhu _ _ _ | .sb _ _ _ | .sh _ _ _ | .sw _ _ _
  | .addi _ _ _ | .slti _ _ _ | .sltiu _ _ _ | .xori _ _ _ | .ori _ _ _ | .andi _ _ _
  | .slli _ _ _ | .srli _ _ _ | .srai _ _ _
  | .add _ _ _ | .sub _ _ _ | .sll _ _ _ | .slt _ _ _ | .sltu _ _ _ | .xor _ _ _
  | .srl _ _ _ | .sra _ _ _ | .or _ _ _ | .and _ _ _ | .ecall | .ebreak | .fence => false

/-- The `n` bytes of an image at an offset are those of `value`, least significant first; none of them is missing. -/
def FieldIs (image : List Byte) (offset n value : Nat) : Prop :=
  ∀ k, k < n → (image[offset + k]?).map BitVec.toNat = some (value / 256 ^ k % 256)

/-- The magic check of R222. -/
def MagicOk (p : Params) (image : List Byte) : Prop := FieldIs image 0 4 p.magic0.toNat ∧ FieldIs image 4 4 p.magic1.toNat
/-- The type check of R223. -/
def TypeOk (p : Params) (image : List Byte) : Prop := FieldIs image p.offType 2 p.typeExec.toNat
/-- The machine check of R224. -/
def MachineOk (p : Params) (image : List Byte) : Prop := FieldIs image p.offMachine 2 p.machineId.toNat

/-- One row of opcode_table.json: its mask, its match and its mnemonic (R74 to R78). -/
structure TableRow where
  mask : Word
  pattern : Word
  mnemonic : String
deriving DecidableEq, Repr

/-- The rows with no funct3: LUI, AUIPC, JAL, ECALL, FENCE.  EBREAK's row gives the canonical word only (see its note). -/
def tableRowsByOpcode : List TableRow :=
  [⟨0x0000007F, 0x00000037, "LUI"⟩, ⟨0x0000007F, 0x00000017, "AUIPC"⟩, ⟨0x0000007F, 0x0000006F, "JAL"⟩,
   ⟨0xFFF0007F, 0x00000073, "ECALL"⟩, ⟨0xFFFFFFFF, 0x00100073, "EBREAK"⟩, ⟨0x0000007F, 0x0000000F, "FENCE"⟩]

/-- The rows selected by funct3. -/
def tableRowsByFunct3 : List TableRow :=
  [⟨0x0000707F, 0x00000067, "JALR"⟩,
   ⟨0x0000707F, 0x00000063, "BEQ"⟩, ⟨0x0000707F, 0x00001063, "BNE"⟩, ⟨0x0000707F, 0x00004063, "BLT"⟩,
   ⟨0x0000707F, 0x00005063, "BGE"⟩, ⟨0x0000707F, 0x00006063, "BLTU"⟩, ⟨0x0000707F, 0x00007063, "BGEU"⟩,
   ⟨0x0000707F, 0x00000003, "LB"⟩, ⟨0x0000707F, 0x00001003, "LH"⟩, ⟨0x0000707F, 0x00002003, "LW"⟩,
   ⟨0x0000707F, 0x00004003, "LBU"⟩, ⟨0x0000707F, 0x00005003, "LHU"⟩,
   ⟨0x0000707F, 0x00000023, "SB"⟩, ⟨0x0000707F, 0x00001023, "SH"⟩, ⟨0x0000707F, 0x00002023, "SW"⟩,
   ⟨0x0000707F, 0x00000013, "ADDI"⟩, ⟨0x0000707F, 0x00002013, "SLTI"⟩, ⟨0x0000707F, 0x00003013, "SLTIU"⟩,
   ⟨0x0000707F, 0x00004013, "XORI"⟩, ⟨0x0000707F, 0x00006013, "ORI"⟩, ⟨0x0000707F, 0x00007013, "ANDI"⟩]

/-- The rows selected by funct3 and w[31:25]. -/
def tableRowsByFunct7 : List TableRow :=
  [⟨0xFE00707F, 0x00001013, "SLLI"⟩, ⟨0xFE00707F, 0x00005013, "SRLI"⟩, ⟨0xFE00707F, 0x40005013, "SRAI"⟩,
   ⟨0xFE00707F, 0x00000033, "ADD"⟩, ⟨0xFE00707F, 0x40000033, "SUB"⟩, ⟨0xFE00707F, 0x00001033, "SLL"⟩,
   ⟨0xFE00707F, 0x00002033, "SLT"⟩, ⟨0xFE00707F, 0x00003033, "SLTU"⟩, ⟨0xFE00707F, 0x00004033, "XOR"⟩,
   ⟨0xFE00707F, 0x00005033, "SRL"⟩, ⟨0xFE00707F, 0x40005033, "SRA"⟩, ⟨0xFE00707F, 0x00006033, "OR"⟩,
   ⟨0xFE00707F, 0x00007033, "AND"⟩]

end Sys2Proof.Machine
end

