-- ==== Sys2Proof/Certificates/Slice0/Obligations.lean ====
section
/-! DEFINITION. The statements for the provers.  Where a statement rests on a choice the spec marks as its own (a D row of
92_eei_decisions.md) or on a log entry, its docstring says so.  Results are stated over integers and bits, not with the
operations the meanings use. -/

open Sys2Proof Sys2Proof.Machine

/-! ### Upper immediates and jumps -/

/-- R100: LUI writes its 20-bit field times 4096 and nothing else. -/
def Obligations.LuiWritesUpperImmediate : Prop :=
  ∀ (s : State) (rd : RegIdx) (imm20 : BitVec 20),
    ∃ v : Word, v.toNat = imm20.toNat * 4096 ∧ WritesRegister (.lui rd imm20) s rd v

/-- R101: AUIPC writes its own address plus the field times 4096, modulo 2^32. -/
def Obligations.AuipcAddsToItsOwnAddress : Prop :=
  ∀ (s : State) (rd : RegIdx) (imm20 : BitVec 20),
    ∃ v : Word, v.toNat = (s.pc.toNat + imm20.toNat * 4096) % 2 ^ 32 ∧ WritesRegister (.auipc rd imm20) s rd v

/-- R105: JAL links `cur + 4` and jumps to `cur` plus its signed offset, modulo 2^32, unchecked. -/
def Obligations.JalLinksAndJumpsRelative : Prop :=
  ∀ (s : State) (rd : RegIdx) (offset : BitVec 21),
    ∃ link target : Word, link.toNat = (s.pc.toNat + 4) % 2 ^ 32 ∧
      (target.toNat : Int) = (s.pc.toNat + offset.toInt) % 2 ^ 32 ∧
      LinksAndJumps (.jal rd offset) s rd link target

/-- R106: JALR links `cur + 4` and jumps to the sum with its low bit cleared; the sum uses the old base, also when rd = rs1
(that order is the spec's own choice, D8). -/
def Obligations.JalrLinksAndJumpsToEvenTarget : Prop :=
  ∀ (s : State) (rd rs1 : RegIdx) (imm : BitVec 12),
    ∃ link target : Word, link.toNat = (s.pc.toNat + 4) % 2 ^ 32 ∧
      (target.toNat : Int) = ((s.getReg rs1).toNat + imm.toInt) % 2 ^ 32 / 2 * 2 ∧
      LinksAndJumps (.jalr rd rs1 imm) s rd link target

/-! ### Branches -/

/-- R111, R112: BEQ and BNE compare for equality; taken, pc is `cur` plus the signed offset, else `cur + 4`. -/
def Obligations.BeqBneBranchOnEquality : Prop :=
  ∀ (s : State) (rs1 rs2 : RegIdx) (offset : BitVec 13),
    ∃ target : Word, (target.toNat : Int) = (s.pc.toNat + offset.toInt) % 2 ^ 32 ∧
      OnlyMovesPc (.beq rs1 rs2 offset) s (if s.getReg rs1 = s.getReg rs2 then target else s.pc + 4#32) ∧
      OnlyMovesPc (.bne rs1 rs2 offset) s (if s.getReg rs1 = s.getReg rs2 then s.pc + 4#32 else target)

/-- R113, R114: BLT and BGE compare signed values. -/
def Obligations.BltBgeBranchOnSignedOrder : Prop :=
  ∀ (s : State) (rs1 rs2 : RegIdx) (offset : BitVec 13),
    ∃ target : Word, (target.toNat : Int) = (s.pc.toNat + offset.toInt) % 2 ^ 32 ∧
      OnlyMovesPc (.blt rs1 rs2 offset) s (if (s.getReg rs1).toInt < (s.getReg rs2).toInt then target else s.pc + 4#32) ∧
      OnlyMovesPc (.bge rs1 rs2 offset) s (if (s.getReg rs2).toInt ≤ (s.getReg rs1).toInt then target else s.pc + 4#32)

/-- R115, R116: BLTU and BGEU compare unsigned values. -/
def Obligations.BltuBgeuBranchOnUnsignedOrder : Prop :=
  ∀ (s : State) (rs1 rs2 : RegIdx) (offset : BitVec 13),
    ∃ target : Word, (target.toNat : Int) = (s.pc.toNat + offset.toInt) % 2 ^ 32 ∧
      OnlyMovesPc (.bltu rs1 rs2 offset) s (if (s.getReg rs1).toNat < (s.getReg rs2).toNat then target else s.pc + 4#32) ∧
      OnlyMovesPc (.bgeu rs1 rs2 offset) s (if (s.getReg rs2).toNat ≤ (s.getReg rs1).toNat then target else s.pc + 4#32)

/-! ### Loads and stores -/

/-- LB and LBU: one byte at base plus signed displacement, sign- or zero-extended; out of range the engine halts with no other
effect (the spec's own choice, D2; also for rd = x0, D32). -/
def Obligations.ByteLoadsExtendOrHalt : Prop :=
  ∀ (s : State) (rd rs1 : RegIdx) (imm : BitVec 12),
    ∃ ea vs vu : Word, (ea.toNat : Int) = ((s.getReg rs1).toNat + imm.toInt) % 2 ^ 32 ∧
      vs.toInt = (s.byteAt (byteAddr ea 0)).toInt ∧ vu.toNat = (s.byteAt (byteAddr ea 0)).toNat ∧
      LoadsOrHalts (.lb rd rs1 imm) s rd ea 1 vs ∧ LoadsOrHalts (.lbu rd rs1 imm) s rd ea 1 vu

/-- LH and LHU: two bytes, little-endian, at any alignment, sign- or zero-extended; out of range the engine halts with no other
effect (D2, D32). -/
def Obligations.HalfLoadsExtendOrHalt : Prop :=
  ∀ (s : State) (rd rs1 : RegIdx) (imm : BitVec 12),
    ∃ ea vs vu : Word, (ea.toNat : Int) = ((s.getReg rs1).toNat + imm.toInt) % 2 ^ 32 ∧
      vs.toInt = (s.byteAt (byteAddr ea 0)).toNat + 256 * (s.byteAt (byteAddr ea 1)).toInt ∧
      vu.toNat = (s.byteAt (byteAddr ea 0)).toNat + 256 * (s.byteAt (byteAddr ea 1)).toNat ∧
      LoadsOrHalts (.lh rd rs1 imm) s rd ea 2 vs ∧ LoadsOrHalts (.lhu rd rs1 imm) s rd ea 2 vu

/-- LW: four bytes, little-endian, at any alignment; out of range the engine halts with no other effect (D2, D32). -/
def Obligations.WordLoadReadsLittleEndianOrHalts : Prop :=
  ∀ (s : State) (rd rs1 : RegIdx) (imm : BitVec 12),
    ∃ ea v : Word, (ea.toNat : Int) = ((s.getReg rs1).toNat + imm.toInt) % 2 ^ 32 ∧
      v.toNat = (s.byteAt (byteAddr ea 0)).toNat + 256 * (s.byteAt (byteAddr ea 1)).toNat +
        65536 * (s.byteAt (byteAddr ea 2)).toNat + 16777216 * (s.byteAt (byteAddr ea 3)).toNat ∧
      LoadsOrHalts (.lw rd rs1 imm) s rd ea 4 v

/-- SB, SH and SW: the low 1, 2 or 4 bytes of x[rs2], little-endian, at base plus signed displacement, every other byte as
before; out of range the engine halts and no byte is written (D2). -/
def Obligations.StoresWriteLowBytesOrHalt : Prop :=
  ∀ (s : State) (rs1 rs2 : RegIdx) (imm : BitVec 12),
    (((effectiveAddress (s.getReg rs1) imm).toNat : Int) = ((s.getReg rs1).toNat + imm.toInt) % 2 ^ 32) ∧
      StoresOrHalts (.sb rs1 rs2 imm) s (effectiveAddress (s.getReg rs1) imm) 1 (s.getReg rs2) ∧
      StoresOrHalts (.sh rs1 rs2 imm) s (effectiveAddress (s.getReg rs1) imm) 2 (s.getReg rs2) ∧
      StoresOrHalts (.sw rs1 rs2 imm) s (effectiveAddress (s.getReg rs1) imm) 4 (s.getReg rs2)

/-- A load sees the store before it, and so does the next fetch: SW then LW, SH then LHU, SB then LBU at one address give the
low bytes stored, and the word stored by SW is the word fetched there. -/
def Obligations.LoadAndFetchSeeTheStore : Prop :=
  ∀ (s : State) (rs1 rs2 rd q : RegIdx) (imm disp : BitVec 12), rd ≠ 0#5 →
    (∀ t, exec (.sw rs1 rs2 imm) s = .next t → AccessInside s (effectiveAddress (s.getReg rs1) imm) 4 →
      effectiveAddress (t.getReg q) disp = effectiveAddress (s.getReg rs1) imm →
      (∃ u, exec (.lw rd q disp) t = .next u ∧ u.getReg rd = s.getReg rs2) ∧
      (t.setPc (effectiveAddress (s.getReg rs1) imm)).fetchWord = s.getReg rs2) ∧
    (∀ t, exec (.sh rs1 rs2 imm) s = .next t → AccessInside s (effectiveAddress (s.getReg rs1) imm) 2 →
      effectiveAddress (t.getReg q) disp = effectiveAddress (s.getReg rs1) imm →
      ∃ u, exec (.lhu rd q disp) t = .next u ∧ (u.getReg rd).toNat = (s.getReg rs2).toNat % 65536) ∧
    (∀ t, exec (.sb rs1 rs2 imm) s = .next t → AccessInside s (effectiveAddress (s.getReg rs1) imm) 1 →
      effectiveAddress (t.getReg q) disp = effectiveAddress (s.getReg rs1) imm →
      ∃ u, exec (.lbu rd q disp) t = .next u ∧ (u.getReg rd).toNat = (s.getReg rs2).toNat % 256)

/-! ### Register-immediate operations -/

/-- R136: ADDI adds the signed immediate modulo 2^32, with no trap and no flag. -/
def Obligations.AddiAddsSignedImmediate : Prop :=
  ∀ (s : State) (rd rs1 : RegIdx) (imm : BitVec 12),
    ∃ v : Word, (v.toNat : Int) = ((s.getReg rs1).toNat + imm.toInt) % 2 ^ 32 ∧ WritesRegister (.addi rd rs1 imm) s rd v

/-- R137, R138: SLTI compares signed values; SLTIU sign-extends the immediate first and then compares unsigned values. -/
def Obligations.SltiSltiuCompareWithImmediate : Prop :=
  ∀ (s : State) (rd rs1 : RegIdx) (imm : BitVec 12),
    WritesRegister (.slti rd rs1 imm) s rd (if (s.getReg rs1).toInt < imm.toInt then 1#32 else 0#32) ∧
    WritesRegister (.sltiu rd rs1 imm) s rd
      (if ((s.getReg rs1).toNat : Int) < imm.toInt % 2 ^ 32 then 1#32 else 0#32)

/-- R139 to R141: XORI, ORI and ANDI, bit by bit; above bit 11 the immediate's bit is its bit 11. -/
def Obligations.BitwiseImmediatesUseSignExtension : Prop :=
  ∀ (s : State) (rd rs1 : RegIdx) (imm : BitVec 12),
    ∃ vx vo va : Word,
      (∀ k, k < 32 → vx.getLsbD k = ((s.getReg rs1).getLsbD k ^^ imm.getLsbD (min k 11))) ∧
      (∀ k, k < 32 → vo.getLsbD k = ((s.getReg rs1).getLsbD k || imm.getLsbD (min k 11))) ∧
      (∀ k, k < 32 → va.getLsbD k = ((s.getReg rs1).getLsbD k && imm.getLsbD (min k 11))) ∧
      WritesRegister (.xori rd rs1 imm) s rd vx ∧ WritesRegister (.ori rd rs1 imm) s rd vo ∧
      WritesRegister (.andi rd rs1 imm) s rd va

/-- R142 to R144: SLLI multiplies by a power of two modulo 2^32, SRLI divides the unsigned value, SRAI the signed one, rounding
toward minus infinity. -/
def Obligations.ImmediateShiftsScaleByPowersOfTwo : Prop :=
  ∀ (s : State) (rd rs1 : RegIdx) (shamt : BitVec 5),
    ∃ vl vr va : Word,
      vl.toNat = (s.getReg rs1).toNat * 2 ^ shamt.toNat % 2 ^ 32 ∧
      vr.toNat = (s.getReg rs1).toNat / 2 ^ shamt.toNat ∧
      va.toInt = (s.getReg rs1).toInt / 2 ^ shamt.toNat ∧
      WritesRegister (.slli rd rs1 shamt) s rd vl ∧ WritesRegister (.srli rd rs1 shamt) s rd vr ∧
      WritesRegister (.srai rd rs1 shamt) s rd va

/-! ### Register-register operations -/

/-- R151, R152: ADD and SUB modulo 2^32. -/
def Obligations.AddSubWrapModulo : Prop :=
  ∀ (s : State) (rd rs1 rs2 : RegIdx),
    ∃ va vs : Word, va.toNat = ((s.getReg rs1).toNat + (s.getReg rs2).toNat) % 2 ^ 32 ∧
      (vs.toNat : Int) = ((s.getReg rs1).toNat - (s.getReg rs2).toNat : Int) % 2 ^ 32 ∧
      WritesRegister (.add rd rs1 rs2) s rd va ∧ WritesRegister (.sub rd rs1 rs2) s rd vs

/-- R154, R155: SLT compares signed values, SLTU unsigned ones; the result is 1 or 0. -/
def Obligations.SltSltuCompareRegisters : Prop :=
  ∀ (s : State) (rd rs1 rs2 : RegIdx),
    WritesRegister (.slt rd rs1 rs2) s rd (if (s.getReg rs1).toInt < (s.getReg rs2).toInt then 1#32 else 0#32) ∧
    WritesRegister (.sltu rd rs1 rs2) s rd (if (s.getReg rs1).toNat < (s.getReg rs2).toNat then 1#32 else 0#32)

/-- R156, R159, R160: XOR, OR and AND, bit by bit. -/
def Obligations.BitwiseRegisterOperations : Prop :=
  ∀ (s : State) (rd rs1 rs2 : RegIdx),
    ∃ vx vo va : Word,
      (∀ k, k < 32 → vx.getLsbD k = ((s.getReg rs1).getLsbD k ^^ (s.getReg rs2).getLsbD k)) ∧
      (∀ k, k < 32 → vo.getLsbD k = ((s.getReg rs1).getLsbD k || (s.getReg rs2).getLsbD k)) ∧
      (∀ k, k < 32 → va.getLsbD k = ((s.getReg rs1).getLsbD k && (s.getReg rs2).getLsbD k)) ∧
      WritesRegister (.xor rd rs1 rs2) s rd vx ∧ WritesRegister (.or rd rs1 rs2) s rd vo ∧
      WritesRegister (.and rd rs1 rs2) s rd va

/-- R153, R157, R158: SLL, SRL and SRA by the low five bits of x[rs2]. -/
def Obligations.RegisterShiftsUseLowFiveBits : Prop :=
  ∀ (s : State) (rd rs1 rs2 : RegIdx),
    ∃ vl vr va : Word,
      vl.toNat = (s.getReg rs1).toNat * 2 ^ ((s.getReg rs2).toNat % 32) % 2 ^ 32 ∧
      vr.toNat = (s.getReg rs1).toNat / 2 ^ ((s.getReg rs2).toNat % 32) ∧
      va.toInt = (s.getReg rs1).toInt / 2 ^ ((s.getReg rs2).toNat % 32) ∧
      WritesRegister (.sll rd rs1 rs2) s rd vl ∧ WritesRegister (.srl rd rs1 rs2) s rd vr ∧
      WritesRegister (.sra rd rs1 rs2) s rd va

/-! ### ECALL and the syscalls, EBREAK, FENCE -/

/-- R177, R202: call 0 exits: Halted with reason Exit, one ExitCall event, pc at `cur + 4`, registers and memory unchanged. -/
def Obligations.EcallZeroExits : Prop :=
  ∀ s : State, s.getReg 10#5 = 0#32 →
    ∃ t, exec .ecall s = .next t ∧ t.exited = true ∧ t.haltReason = .exit ∧ t.diag = s.diag ++ [.exitCall] ∧
      t.pc = s.pc + 4#32 ∧ t.ecallPending = false ∧ t.paused = s.paused ∧ t.stepReq = s.stepReq ∧ t.trace = s.trace ∧
      SameRegs s t ∧ SameMem s t ∧ SameInputs s t

/-- R178: call 100 emits the signed value of a1 and does nothing else. -/
def Obligations.EcallHundredPrintsSignedInteger : Prop :=
  ∀ s : State, s.getReg 10#5 = 100#32 → CallOnlyEmits s (.printInt (s.getReg 11#5).toInt)

/-- Call 101 emits the bytes before the first zero, or the first STR_MAX bytes where none of them is zero, provided every byte it
reads lies inside memory (R179; the bound's value is open, D15). -/
def Obligations.EcallPrintsStringUpToZeroOrBound : Prop :=
  ∀ (s : State) (n : Nat), s.getReg 10#5 = 101#32 → n ≤ s.params.strMax →
    (∀ k, k < n → byteAddr (s.getReg 11#5) k < s.params.memSize ∧ s.byteAt (byteAddr (s.getReg 11#5) k) ≠ 0#8) →
    (n < s.params.strMax →
      byteAddr (s.getReg 11#5) n < s.params.memSize ∧ s.byteAt (byteAddr (s.getReg 11#5) n) = 0#8) →
    CallOnlyEmits s (.printStr ((List.range n).map fun k => s.byteAt (byteAddr (s.getReg 11#5) k)))

/-- Call 101 halts at its first byte out of range (the spec's own choices D2, D19): no PrintStr event, pc back at the ECALL, the
byte's address recorded. -/
def Obligations.EcallStringOutOfRangeHalts : Prop :=
  ∀ (s : State) (n : Nat), s.getReg 10#5 = 101#32 → n < s.params.strMax →
    (∀ k, k < n → byteAddr (s.getReg 11#5) k < s.params.memSize ∧ s.byteAt (byteAddr (s.getReg 11#5) k) ≠ 0#8) →
    s.params.memSize ≤ byteAddr (s.getReg 11#5) n →
    ∃ t, exec .ecall s = .next t ∧
      FatalHaltOf s t (.dataOutOfRange (BitVec.ofNat 32 (byteAddr (s.getReg 11#5) n)) s.pc)

/-- Call 103 emits the 32 register values, x0 as 0, and not pc (that pc is left out is the spec's own choice, D27). -/
def Obligations.EcallDumpsAllRegisters : Prop :=
  ∀ s : State, s.getReg 10#5 = 103#32 →
    ∃ x : Vector Word 32, (∀ (i : Nat) (h : i < 32), x[i] = s.getReg (BitVec.ofNat 5 i)) ∧ CallOnlyEmits s (.dumpRegs x)

/-- Call 200 puts the switch value in a0, emits it, and does nothing else (R181; the value is the environment's, D16: the next
one listed, else a free value). -/
def Obligations.EcallReadsSwitchesIntoA0 : Prop :=
  ∀ (s : State) (v : Word) (rest : List Word), s.getReg 10#5 = 200#32 →
    (s.switches = v :: rest ∨ (s.switches = [] ∧ rest = [] ∧ v = Config.freeSwitch s.freeSwitches)) →
    ∃ t, exec .ecall s = .next t ∧ t.getReg 10#5 = v ∧ (∀ r, r ≠ 10#5 → t.getReg r = s.getReg r) ∧
      t.diag = s.diag ++ [.inputRead v] ∧ t.trace = s.trace ∧ t.pc = s.pc + 4#32 ∧ t.ecallPending = false ∧
      SameMem s t ∧ t.paused = s.paused ∧ t.stepReq = s.stepReq ∧ t.exited = s.exited ∧ t.haltReason = s.haltReason ∧
      t.switches = rest ∧ t.freeSwitches = s.freeSwitches + (if s.switches = [] then 1 else 0) ∧
      t.params = s.params ∧ t.buttons = s.buttons ∧ t.freeButtons = s.freeButtons ∧ t.images = s.images ∧ t.resetCount = s.resetCount ∧
      t.led = s.led

/-- R182: any other call number is reported and changes nothing. -/
def Obligations.EcallUnknownNumberOnlyReports : Prop :=
  ∀ s : State, s.getReg 10#5 ∉ [0#32, 100#32, 101#32, 103#32, 200#32] → CallOnlyEmits s (.unknownCall (s.getReg 10#5))

/-- R166: EBREAK sets `paused`, leaves pc at `cur + 4`, and changes nothing else. -/
def Obligations.EbreakPauses : Prop :=
  ∀ s : State, ∃ t, exec .ebreak s = .next t ∧ t.paused = true ∧ t.pc = s.pc + 4#32 ∧
    SameRegs s t ∧ SameMem s t ∧ t.stepReq = s.stepReq ∧ t.ecallPending = s.ecallPending ∧ t.exited = s.exited ∧
    t.haltReason = s.haltReason ∧ SameInputs s t ∧ SameOutputs s t

/-- R167: a MISC-MEM word, whatever its other bits, changes no state: its step leaves pc at `cur + 4` and emits an "unsupported"
line (the opcode's value is the spec's, D1). -/
def Obligations.FenceIsNoOpOnState : Prop :=
  (∀ s : State, OnlyMovesPc .fence s (s.pc + 4#32)) ∧
  ∀ s : State, s.exited = false → s.fetchFatal = none → s.fetchWord.toNat % 128 = 0x0F →
    ∃ t, s.engineStep = .next t ∧ t.pc = s.pc + 4#32 ∧ SameRegs s t ∧ SameMem s t ∧ SameControl s t ∧ SameInputs s t ∧
      t.diag = s.diag ∧ t.trace = s.trace ++ [.executed s.pc s.fetchWord (.instr .fence) .unsupported]

/-! ### Words that name no instruction -/

/-- A word whose opcode is none of the eleven is a no-op with an "unknown" line (R168; the opcode values are the spec's, D1). -/
def Obligations.UnknownOpcodeIsNoOp : Prop :=
  ∀ s : State, s.exited = false → s.fetchFatal = none →
    s.fetchWord.toNat % 128 ∉ [0x37, 0x17, 0x6F, 0x67, 0x63, 0x03, 0x23, 0x13, 0x33, 0x73, 0x0F] →
    ∃ t, s.engineStep = .next t ∧ t.pc = s.pc + 4#32 ∧ SameRegs s t ∧ SameMem s t ∧ SameControl s t ∧ SameInputs s t ∧
      t.diag = s.diag ∧ t.trace = s.trace ++ [.executed s.pc s.fetchWord .unknown .unknown]

/-- A reserved word is a no-op with an "unknown" line under SoftNop and halts, word recorded and no other effect, under Fault
(R169; both settings are the spec's own choice, D5). -/
def Obligations.ReservedWordFollowsItsPolicy : Prop :=
  ∀ s : State, s.exited = false → s.fetchFatal = none → decode s.fetchWord = .reserved →
    (s.params.reserved = .softNop →
      ∃ t, s.engineStep = .next t ∧ t.pc = s.pc + 4#32 ∧ SameRegs s t ∧ SameMem s t ∧ SameControl s t ∧ SameInputs s t ∧
        t.diag = s.diag ∧ t.trace = s.trace ++ [.executed s.pc s.fetchWord .reserved .unknown]) ∧
    (s.params.reserved = .fault →
      ∃ t, s.engineStep = .next t ∧ FatalHaltOf s t (.reservedEncoding s.fetchWord s.pc))

/-! ### Encoding -/

/-- Decoding the encoding of a well-formed instruction gives it back, whatever its operands. -/
def Obligations.DecodeOfEncodeIsTheInstruction : Prop :=
  ∀ i : Instr, i.wellFormed = true → decode (encode i) = .instr i

/-- What the decoder reads is well-formed, and encodes to the word read, EXCEPT where the class ignores fields (ECALL, EBREAK,
FENCE: R77, R78). -/
def Obligations.EncodeOfDecodeIsTheWord : Prop :=
  ∀ (w : Word) (i : Instr), decode w = .instr i →
    i.wellFormed = true ∧ (i = .ecall ∨ i = .ebreak ∨ i = .fence ∨ encode i = w)

/-- R88, with the two re-encodings as the rule writes them. -/
def Obligations.BranchAndJumpImmediatesRoundTrip : Prop :=
  ∀ w : Word,
    (w &&& 0x01FFF07F#32) ||| ((immBOf w).extractLsb' 12 1).setWidth 32 <<< 31 |||
        ((immBOf w).extractLsb' 5 6).setWidth 32 <<< 25 ||| ((immBOf w).extractLsb' 1 4).setWidth 32 <<< 8 |||
        ((immBOf w).extractLsb' 11 1).setWidth 32 <<< 7 = w ∧
    (w &&& 0x00000FFF#32) ||| ((immJOf w).extractLsb' 20 1).setWidth 32 <<< 31 |||
        ((immJOf w).extractLsb' 1 10).setWidth 32 <<< 21 ||| ((immJOf w).extractLsb' 11 1).setWidth 32 <<< 20 |||
        ((immJOf w).extractLsb' 12 8).setWidth 32 <<< 12 = w

/-- R68 and R70 to R73: the immediates of a word as integers, with their ranges, and which instructions take imm_I (R68). -/
def Obligations.ImmediatesHaveTheirIntegerValues : Prop :=
  ∀ w : Word,
    (sext12 (immIOf w)).toInt = w.toInt / 2 ^ 20 ∧
    -2048 ≤ (sext12 (immIOf w)).toInt ∧ (sext12 (immIOf w)).toInt ≤ 2047 ∧
    (∀ (rd rs1 : RegIdx) (imm : BitVec 12), ∀ i ∈ [Instr.jalr rd rs1 imm, .lb rd rs1 imm, .lh rd rs1 imm, .lw rd rs1 imm,
        .lbu rd rs1 imm, .lhu rd rs1 imm, .addi rd rs1 imm, .slti rd rs1 imm, .sltiu rd rs1 imm, .xori rd rs1 imm,
        .ori rd rs1 imm, .andi rd rs1 imm], decode w = .instr i → imm = immIOf w) ∧
    (sext12 (immSOf w)).toInt = w.toInt / 2 ^ 25 * 32 + (w.toNat / 2 ^ 7 % 32 : Nat) ∧
    -2048 ≤ (sext12 (immSOf w)).toInt ∧ (sext12 (immSOf w)).toInt ≤ 2047 ∧
    (sext13 (immBOf w)).toInt =
      w.toInt / 2 ^ 31 * 4096 + (w.toNat / 2 ^ 7 % 2 * 2048 + w.toNat / 2 ^ 25 % 64 * 32 + w.toNat / 2 ^ 8 % 16 * 2 : Nat) ∧
    -4096 ≤ (sext13 (immBOf w)).toInt ∧ (sext13 (immBOf w)).toInt ≤ 4094 ∧ (sext13 (immBOf w)).toInt % 2 = 0 ∧
    (immU (imm20Of w)).toNat = w.toNat / 4096 * 4096 ∧
    (sext21 (immJOf w)).toInt =
      w.toInt / 2 ^ 31 * 1048576 +
        (w.toNat / 2 ^ 12 % 256 * 4096 + w.toNat / 2 ^ 20 % 2 * 2048 + w.toNat / 2 ^ 21 % 1024 * 2 : Nat) ∧
    -1048576 ≤ (sext21 (immJOf w)).toInt ∧ (sext21 (immJOf w)).toInt ≤ 1048574 ∧ (sext21 (immJOf w)).toInt % 2 = 0

/-- Every word that matches a row of opcode_table.json decodes to that row's instruction (values: D1). -/
def Obligations.OpcodeTableRowsDecodeToTheirInstruction : Prop :=
  ∀ row ∈ tableRowsByOpcode ++ tableRowsByFunct3 ++ tableRowsByFunct7, ∀ w : Word, w &&& row.mask = row.pattern →
    ∃ i, decode w = .instr i ∧ mnemonicOf i = row.mnemonic

/-- Which words are unknown, which are reserved, and how SYSTEM and MISC-MEM words decode (R77 to R80; the values are the spec's,
D1, the reserved set D5, the fields SYSTEM looks at D6). -/
def Obligations.UnknownReservedAndSystemWords : Prop :=
  ∀ w : Word,
    (decode w = .unknown ↔ w.toNat % 128 ∉ [0x37, 0x17, 0x6F, 0x67, 0x63, 0x03, 0x23, 0x13, 0x33, 0x73, 0x0F]) ∧
    (decode w = .reserved ↔
      (w.toNat % 128 = 0x67 ∧ w.toNat / 2 ^ 12 % 8 ≠ 0) ∨
      (w.toNat % 128 = 0x63 ∧ w.toNat / 2 ^ 12 % 8 ∈ [2, 3]) ∨
      (w.toNat % 128 = 0x03 ∧ w.toNat / 2 ^ 12 % 8 ∈ [3, 6, 7]) ∨
      (w.toNat % 128 = 0x23 ∧ w.toNat / 2 ^ 12 % 8 ∈ [3, 4, 5, 6, 7]) ∨
      (w.toNat % 128 = 0x13 ∧ w.toNat / 2 ^ 12 % 8 = 1 ∧ w.toNat / 2 ^ 25 ≠ 0) ∨
      (w.toNat % 128 = 0x13 ∧ w.toNat / 2 ^ 12 % 8 = 5 ∧ w.toNat / 2 ^ 25 ∉ [0, 32]) ∨
      (w.toNat % 128 = 0x33 ∧ w.toNat / 2 ^ 12 % 8 ∈ [0, 5] ∧ w.toNat / 2 ^ 25 ∉ [0, 32]) ∨
      (w.toNat % 128 = 0x33 ∧ w.toNat / 2 ^ 12 % 8 ∉ [0, 5] ∧ w.toNat / 2 ^ 25 ≠ 0)) ∧
    (w.toNat % 128 = 0x73 → decode w = .instr (if w.toNat / 2 ^ 20 = 0 then .ecall else .ebreak)) ∧
    (w.toNat % 128 = 0x0F → decode w = .instr .fence)

/-- A few words of the spec's worked examples.  It rests on the numeric encoding, which the source does not give (the spec's own
choice, D1; log 13). -/
def Obligations.WorkedExampleWordsDecode : Prop :=
  decode 0x123452B7#32 = .instr (.lui 5#5 0x12345#20) ∧
  decode 0x008000EF#32 = .instr (.jal 1#5 8#21) ∧
  decode 0xFE209CE3#32 = .instr (.bne 1#5 2#5 (BitVec.ofInt 13 (-8))) ∧
  decode 0xFFC32283#32 = .instr (.lw 5#5 6#5 (BitVec.ofInt 12 (-4))) ∧
  decode 0xFE732E23#32 = .instr (.sw 6#5 7#5 (BitVec.ofInt 12 (-4))) ∧
  decode 0x41F35293#32 = .instr (.srai 5#5 6#5 31#5) ∧
  decode 0x407302B3#32 = .instr (.sub 5#5 6#5 7#5) ∧
  decode 0x00000073#32 = .instr .ecall

/-! ### The step and the iteration -/

/-- When the engine may step and the four bytes at pc, least significant first, decode to an instruction, the machine's step
is that instruction's meaning on the state after polling and the signals, which has the same registers, memory and pc (R90,
R196).  Three clauses are the spec's own choices: a faulted step adds no Executed event (D31; log 31), the signals are applied
before the step (D9; log 20), and the step request is cleared after it (D10; log 20). -/
def Obligations.StepRunsTheDecodedInstruction : Prop :=
  ∀ (s u t : State) (w : Word) (i : Instr), s.buttonSample.getLsbD 3 = false →
    u = s.poll.applySignals s.buttonSample → u.exited = false → (u.paused = false ∨ u.stepReq = true) →
    u.fetchFatal = none →
    w = s.byteAt (byteAddr s.pc 3) ++ s.byteAt (byteAddr s.pc 2) ++ s.byteAt (byteAddr s.pc 1) ++ s.byteAt (byteAddr s.pc 0) →
    decode w = .instr i → exec i u = .next t →
    (u.regs = s.regs ∧ u.mem = s.mem ∧ u.pc = s.pc ∧ u.params = s.params ∧ u.trace = s.trace ∧ u.diag = s.diag) ∧
    step s = .next (if t.faulted then { t with stepReq := false }
      else { t with stepReq := false, trace := t.trace ++ [.executed s.pc w (.instr i) (traceLineOf (.instr i))] })

/-- R91: a step at a pc at or above MEM_SIZE halts with PcOutOfBounds and changes no register, no memory and not pc; below
MEM_SIZE it does not report that condition. -/
def Obligations.PcOutOfBoundsHaltsTheStep : Prop :=
  ∀ s : State,
    (s.params.memSize ≤ s.pc.toNat → ∃ t, s.engineStep = .next t ∧ FatalHaltOf s t (.pcOutOfBounds s.pc)) ∧
    (s.pc.toNat < s.params.memSize → ∀ pc, s.fetchFatal ≠ some (.pcOutOfBounds pc))

/-- The other two checks before a fetch, in their order (R203): MisalignedPc under its policy (D4), then FetchOutOfRange (D3);
a pc that passes them is fetched whatever its alignment (R46).  The checks and their order are the spec's own choices. -/
def Obligations.FetchChecksHaltInOrder : Prop :=
  ∀ s : State, s.pc.toNat < s.params.memSize →
    (s.params.misalignedPc = .fault → s.pc.toNat % 4 ≠ 0 →
      ∃ t, s.engineStep = .next t ∧ FatalHaltOf s t (.misalignedPc s.pc)) ∧
    ((s.params.misalignedPc = .fetchUnaligned ∨ s.pc.toNat % 4 = 0) → ¬ AccessInside s s.pc 4 →
      ∃ t, s.engineStep = .next t ∧ FatalHaltOf s t (.fetchOutOfRange s.pc)) ∧
    ((s.params.misalignedPc = .fetchUnaligned ∨ s.pc.toNat % 4 = 0) → AccessInside s s.pc 4 → s.fetchFatal = none)

/-- No iteration stops the model: each answers a next state, and so does each instruction (R98, R192; log 12). -/
def Obligations.EveryIterationAnswersANextState : Prop :=
  (∀ (i : Instr) (s : State), ∃ t, exec i s = .next t) ∧ ∀ s : State, ∃ t, step s = .next t

/-! ### Run control -/

/-- R200: Halted and without a reset request, an iteration executes nothing and ignores the toggle and the step request; the
buttons are still taken and the LED still mirrors the switches. -/
def Obligations.HaltedExecutesNothing : Prop :=
  ∀ s : State, s.exited = true → s.buttonSample.getLsbD 3 = false →
    ∃ t, step s = .next t ∧ SameRegs s t ∧ SameMem s t ∧ t.pc = s.pc ∧ SameControl s t ∧ SameOutputs s t ∧
      t.buttons = s.buttons.tail ∧ t.led = s.switches.headD (Config.freeSwitch s.freeSwitches) ∧ t.images = s.images ∧
      t.freeButtons = s.freeButtons + (if s.buttons = [] then 1 else 0) ∧ t.resetCount = s.resetCount ∧ t.params = s.params

/-- R201, R212: Paused, with no reset, toggle or step request, an iteration executes nothing. -/
def Obligations.PausedWaitsForASignal : Prop :=
  ∀ s : State, s.exited = false → s.paused = true → s.stepReq = false → s.buttonSample.getLsbD 0 = false →
    s.buttonSample.getLsbD 1 = false → s.buttonSample.getLsbD 3 = false →
    ∃ t, step s = .next t ∧ SameRegs s t ∧ SameMem s t ∧ t.pc = s.pc ∧ SameControl s t ∧ SameOutputs s t ∧
      t.buttons = s.buttons.tail ∧ t.led = s.switches.headD (Config.freeSwitch s.freeSwitches) ∧ t.images = s.images ∧
      t.freeButtons = s.freeButtons + (if s.buttons = [] then 1 else 0) ∧ t.resetCount = s.resetCount ∧ t.params = s.params

/-- The toggle while Running pauses before anything is executed; with a step request in the same iteration, exactly the one step
of R199 runs.  The toggle while Paused, with or without a step request, continues: exactly one step runs, with `paused` false, and
the engine is Running after it unless that step halted or was an EBREAK (R198, R201, R203; the order is the spec's own choice, D9). -/
def Obligations.ToggleActsBeforeTheStep : Prop :=
  ∀ s : State, s.exited = false → s.stepReq = false → s.buttonSample.getLsbD 1 = true → s.buttonSample.getLsbD 3 = false →
    (s.paused = false → s.buttonSample.getLsbD 0 = false →
      ∃ t, step s = .next t ∧ t.paused = true ∧ SameRegs s t ∧ SameMem s t ∧ t.pc = s.pc ∧ SameOutputs s t ∧
        t.exited = false ∧ t.stepReq = false) ∧
    (s.paused = false → s.buttonSample.getLsbD 0 = true →
      ∃ u t, { s.poll with paused := true, stepReq := true }.engineStep = .next u ∧ step s = .next t ∧
        t.regs = u.regs ∧ t.mem = u.mem ∧ t.pc = u.pc ∧ t.trace = u.trace ∧ t.diag = u.diag ∧ t.paused = true ∧
        t.exited = u.exited ∧ t.stepReq = false) ∧
    (s.paused = true →
      ∃ u t, { s.poll with paused := false, stepReq := s.buttonSample.getLsbD 0 }.engineStep = .next u ∧ step s = .next t ∧
        t = { u with stepReq := false } ∧
        (decode s.fetchWord ≠ .instr .ebreak → t.paused = false ∧ (t.runState = .running ∨ t.exited = true)))

/-- R199: a step request while Paused executes one step and leaves the engine Paused (unless that step halted), the request used
up; whatever the instruction. -/
def Obligations.SingleStepReturnsToPaused : Prop :=
  ∀ s : State, s.exited = false → s.paused = true → s.buttonSample.getLsbD 0 = true →
    s.buttonSample.getLsbD 1 = false → s.buttonSample.getLsbD 3 = false →
    ∃ u t, { s.poll with stepReq := true }.engineStep = .next u ∧ step s = .next t ∧
      t = { u with stepReq := false } ∧ t.paused = true ∧ t.stepReq = false ∧
      (t.runState = .paused ∨ t.runState = .halted ∧ t.exited = true)

/-- R235: a step run from Paused by a step request has the effect of the same step run while Running, on registers, memory, pc,
the halt, and everything emitted. -/
def Obligations.PausedStepEqualsRunningStep : Prop :=
  ∀ (s : State) (bs : List Word), s.exited = false →
    ∃ u v, step { s with paused := false, buttons := 0#32 :: bs } = .next u ∧
      step { s with paused := true, buttons := 1#32 :: bs } = .next v ∧
      v.regs = u.regs ∧ v.mem = u.mem ∧ v.pc = u.pc ∧ v.exited = u.exited ∧ v.haltReason = u.haltReason ∧
      v.trace = u.trace ∧ v.diag = u.diag ∧ v.led = u.led ∧ v.switches = u.switches ∧ v.paused = true

/-! ### Reset and the loader -/

/-- What a reset with a good image leaves (R35, R226, R229), in any state and whatever else is pressed (R197, R203): registers
zero, flags false, pc at the entry point, the image at 0, no halt reason, Running.  Bytes past the image are free values of the
new reset (the spec's own choice, D13), and the channels keep what they carried (R230). -/
def Obligations.ResetLoadsTheImageAndStartsFresh : Prop :=
  ∀ (s : State) (image : List Byte) (entry : Word),
    s.buttonSample.getLsbD 3 = true → s.nextImage = image → loadImage s.params image = .ok entry →
    ∃ t, step s = .next t ∧ (∀ r, t.getReg r = 0#32) ∧ t.pc = entry ∧
      (∀ (a : Nat) (h : a < image.length), t.byteAt a = image[a]) ∧
      (∀ a, image.length ≤ a → t.byteAt a = Config.freeByte (s.resetCount + 1) a) ∧
      t.paused = false ∧ t.stepReq = false ∧ t.ecallPending = false ∧ t.exited = false ∧ t.haltReason = .none ∧
      t.runState = .running ∧ t.images = s.images.tail ∧ t.params = s.params ∧ SameOutputs s t

/-- What a reset with a refused image leaves (R228; the spec's own choice, D12): Halted with the load error, one LoadFailed event,
registers and pc zero, other flags false. -/
def Obligations.ResetWithBadImageHalts : Prop :=
  ∀ (s : State) (image : List Byte) (k : LoadErr),
    s.buttonSample.getLsbD 3 = true → s.nextImage = image → loadImage s.params image = .error k →
    ∃ t, step s = .next t ∧ (∀ r, t.getReg r = 0#32) ∧ t.pc = 0#32 ∧ t.exited = true ∧ t.haltReason = .loadError k ∧
      t.paused = false ∧ t.stepReq = false ∧ t.ecallPending = false ∧ t.runState = .halted ∧
      t.diag = s.diag ++ [.loadFailed k] ∧ t.trace = s.trace ∧ t.images = s.images.tail ∧ t.params = s.params

/-- The loader accepts an image exactly when size, magic, type and machine are right, and answers its entry-point field; else it
names the first failing check in that order (R221 to R225, R227; the fields' places are parameters and the order is the
spec's own choice, D14). -/
def Obligations.LoaderNamesTheFirstFailingCheck : Prop :=
  ∀ (p : Params) (image : List Byte), p.wf →
    (∀ e, loadImage p image = .ok e ↔
      (52 < image.length ∧ image.length < p.memSize) ∧ MagicOk p image ∧ TypeOk p image ∧ MachineOk p image ∧
        FieldIs image p.offEntry 4 e.toNat) ∧
    (loadImage p image = .error (.badSize image.length) ↔ ¬ (52 < image.length ∧ image.length < p.memSize)) ∧
    (loadImage p image = .error .badMagic ↔ (52 < image.length ∧ image.length < p.memSize) ∧ ¬ MagicOk p image) ∧
    (loadImage p image = .error .badType ↔
      (52 < image.length ∧ image.length < p.memSize) ∧ MagicOk p image ∧ ¬ TypeOk p image) ∧
    (loadImage p image = .error .badMachine ↔
      (52 < image.length ∧ image.length < p.memSize) ∧ MagicOk p image ∧ TypeOk p image ∧ ¬ MachineOk p image)

/-! ### The whole machine -/

/-- The state after reset satisfies the invariant. -/
def Obligations.ResetSatisfiesTheInvariant : Prop := State.reset.Inv

/-- Every iteration keeps the invariant, and the parameters. -/
def Obligations.IterationKeepsTheInvariant : Prop :=
  ∀ s t : State, s.Inv → step s = .next t → t.Inv ∧ t.params = s.params

/-- R23: an instruction changes no register but its rd, never x0, and ECALL changes x10 for call 200 only. -/
def Obligations.OnlyTheNamedRegistersAreWritten : Prop :=
  ∀ (i : Instr) (s t : State) (r : RegIdx), exec i s = .next t → t.getReg r ≠ s.getReg r →
    r ≠ 0#5 ∧ (destinationOf i = some r ∨ (i = .ecall ∧ r = 10#5 ∧ s.getReg 10#5 = 200#32))

/-- Only SB, SH and SW change memory, and only inside the access they compute (R49, R50, R120, R184). -/
def Obligations.OnlyStoresChangeMemory : Prop :=
  ∀ (i : Instr) (s t : State) (a : Nat), exec i s = .next t → t.byteAt a ≠ s.byteAt a →
    ∃ ea n, storeTargetOf s i = some (ea, n) ∧ ∃ k, k < n ∧ byteAddr ea k = a

/-- R27: an instruction that transfers no control leaves pc at `cur + 4`, or at `cur` where it ended in a fatal halt (R97, the
spec's own choice D19). -/
def Obligations.OtherInstructionsAdvancePcByFour : Prop :=
  ∀ (i : Instr) (s t : State), transfersControl i = false → exec i s = .next t →
    t.pc = s.pc + 4#32 ∨ (t.pc = s.pc ∧ t.fatalHalt)

/-- What can move the engine to Halted: an ECALL with a0 = 0, a fatal condition, or a reset whose load failed (R31, R191, R194). -/
def Obligations.OnlyExitFaultOrFailedLoadHalts : Prop :=
  ∀ s t : State, s.exited = false → step s = .next t → t.exited = true →
    (t.cleanExit ∧ decode s.fetchWord = .instr .ecall ∧ s.getReg 10#5 = 0#32) ∨ t.fatalHalt ∨
    (t.refusedStart ∧ s.buttonSample.getLsbD 3 = true)

/-- The host's placing of a word (log 11): the next iteration polls, may step, passes the fetch checks and fetches that word. -/
def Obligations.PlacedWordIsFetchedNext : Prop :=
  ∀ (s : State) (w : Nat), s.params.wf →
    (s.withFetchWord 32 w).buttonSample.getLsbD 3 = false ∧
    ((s.withFetchWord 32 w).poll.applySignals (s.withFetchWord 32 w).buttonSample).mayStep = true ∧
    (s.withFetchWord 32 w).fetchFatal = none ∧ (s.withFetchWord 32 w).fetchWord = BitVec.ofNat 32 w ∧
    (s.withFetchWord 32 w).regs = s.regs ∧
    (s.fetchFatal = none → (s.withFetchWord 32 w).pc = s.pc)

/-- Every iteration, whatever it does, uses up exactly one button mask: the listed one, or a free one where none is listed (R195,
R196; the list is the model's own form, log 9). -/
def Obligations.EveryIterationTakesOneMask : Prop :=
  ∀ s : State, ∃ t, step s = .next t ∧
    (∀ b bs, s.buttons = b :: bs → s.buttonSample = b ∧ t.buttons = bs ∧ t.freeButtons = s.freeButtons) ∧
    (s.buttons = [] → s.buttonSample = Config.freeButtons s.freeButtons ∧ t.buttons = [] ∧
      t.freeButtons = s.freeButtons + 1)
end

