-- ==== Sys2Proof/Laws/Decode.lean ====
section
/-! SUPPORT. The encoder's words, field by field (R61 to R66), and words put together again from their fields.  Each is shown
bit by bit, once. -/

namespace Sys2Proof

/-! ### encR -/

@[simp] theorem opcodeOf_encR (f7 : BitVec 7) (rs2 rs1 : RegIdx) (f3 : BitVec 3) (rd : RegIdx) (op : BitVec 7) :
    opcodeOf (encR f7 rs2 rs1 f3 rd op) = op := by
  refine BitVec.eq_of_getLsbD_eq fun i hi => ?_
  simp only [opcodeOf, encR, BitVec.getLsbD_extractLsb', BitVec.getLsbD_append]
  interval_cases i <;> rfl

@[simp] theorem rdOf_encR (f7 : BitVec 7) (rs2 rs1 : RegIdx) (f3 : BitVec 3) (rd : RegIdx) (op : BitVec 7) :
    rdOf (encR f7 rs2 rs1 f3 rd op) = rd := by
  refine BitVec.eq_of_getLsbD_eq fun i hi => ?_
  simp only [rdOf, encR, BitVec.getLsbD_extractLsb', BitVec.getLsbD_append]
  interval_cases i <;> rfl

@[simp] theorem funct3Of_encR (f7 : BitVec 7) (rs2 rs1 : RegIdx) (f3 : BitVec 3) (rd : RegIdx) (op : BitVec 7) :
    funct3Of (encR f7 rs2 rs1 f3 rd op) = f3 := by
  refine BitVec.eq_of_getLsbD_eq fun i hi => ?_
  simp only [funct3Of, encR, BitVec.getLsbD_extractLsb', BitVec.getLsbD_append]
  interval_cases i <;> rfl

@[simp] theorem rs1Of_encR (f7 : BitVec 7) (rs2 rs1 : RegIdx) (f3 : BitVec 3) (rd : RegIdx) (op : BitVec 7) :
    rs1Of (encR f7 rs2 rs1 f3 rd op) = rs1 := by
  refine BitVec.eq_of_getLsbD_eq fun i hi => ?_
  simp only [rs1Of, encR, BitVec.getLsbD_extractLsb', BitVec.getLsbD_append]
  interval_cases i <;> rfl

@[simp] theorem rs2Of_encR (f7 : BitVec 7) (rs2 rs1 : RegIdx) (f3 : BitVec 3) (rd : RegIdx) (op : BitVec 7) :
    rs2Of (encR f7 rs2 rs1 f3 rd op) = rs2 := by
  refine BitVec.eq_of_getLsbD_eq fun i hi => ?_
  simp only [rs2Of, encR, BitVec.getLsbD_extractLsb', BitVec.getLsbD_append]
  interval_cases i <;> rfl

@[simp] theorem shamtOf_encR (f7 : BitVec 7) (rs2 rs1 : RegIdx) (f3 : BitVec 3) (rd : RegIdx) (op : BitVec 7) :
    shamtOf (encR f7 rs2 rs1 f3 rd op) = rs2 := by
  refine BitVec.eq_of_getLsbD_eq fun i hi => ?_
  simp only [shamtOf, encR, BitVec.getLsbD_extractLsb', BitVec.getLsbD_append]
  interval_cases i <;> rfl

@[simp] theorem funct7Of_encR (f7 : BitVec 7) (rs2 rs1 : RegIdx) (f3 : BitVec 3) (rd : RegIdx) (op : BitVec 7) :
    funct7Of (encR f7 rs2 rs1 f3 rd op) = f7 := by
  refine BitVec.eq_of_getLsbD_eq fun i hi => ?_
  simp only [funct7Of, encR, BitVec.getLsbD_extractLsb', BitVec.getLsbD_append]
  interval_cases i <;> rfl

/-! ### encI -/

@[simp] theorem opcodeOf_encI (imm : BitVec 12) (rs1 : RegIdx) (f3 : BitVec 3) (rd : RegIdx) (op : BitVec 7) :
    opcodeOf (encI imm rs1 f3 rd op) = op := by
  refine BitVec.eq_of_getLsbD_eq fun i hi => ?_
  simp only [opcodeOf, encI, BitVec.getLsbD_extractLsb', BitVec.getLsbD_append]
  interval_cases i <;> rfl

@[simp] theorem rdOf_encI (imm : BitVec 12) (rs1 : RegIdx) (f3 : BitVec 3) (rd : RegIdx) (op : BitVec 7) :
    rdOf (encI imm rs1 f3 rd op) = rd := by
  refine BitVec.eq_of_getLsbD_eq fun i hi => ?_
  simp only [rdOf, encI, BitVec.getLsbD_extractLsb', BitVec.getLsbD_append]
  interval_cases i <;> rfl

@[simp] theorem funct3Of_encI (imm : BitVec 12) (rs1 : RegIdx) (f3 : BitVec 3) (rd : RegIdx) (op : BitVec 7) :
    funct3Of (encI imm rs1 f3 rd op) = f3 := by
  refine BitVec.eq_of_getLsbD_eq fun i hi => ?_
  simp only [funct3Of, encI, BitVec.getLsbD_extractLsb', BitVec.getLsbD_append]
  interval_cases i <;> rfl

@[simp] theorem rs1Of_encI (imm : BitVec 12) (rs1 : RegIdx) (f3 : BitVec 3) (rd : RegIdx) (op : BitVec 7) :
    rs1Of (encI imm rs1 f3 rd op) = rs1 := by
  refine BitVec.eq_of_getLsbD_eq fun i hi => ?_
  simp only [rs1Of, encI, BitVec.getLsbD_extractLsb', BitVec.getLsbD_append]
  interval_cases i <;> rfl

@[simp] theorem immIOf_encI (imm : BitVec 12) (rs1 : RegIdx) (f3 : BitVec 3) (rd : RegIdx) (op : BitVec 7) :
    immIOf (encI imm rs1 f3 rd op) = imm := by
  refine BitVec.eq_of_getLsbD_eq fun i hi => ?_
  simp only [immIOf, encI, BitVec.getLsbD_extractLsb', BitVec.getLsbD_append]
  interval_cases i <;> rfl

/-! ### encS -/

@[simp] theorem opcodeOf_encS (imm : BitVec 12) (rs2 rs1 : RegIdx) (f3 : BitVec 3) (op : BitVec 7) :
    opcodeOf (encS imm rs2 rs1 f3 op) = op := by
  refine BitVec.eq_of_getLsbD_eq fun i hi => ?_
  simp only [opcodeOf, encS, BitVec.getLsbD_extractLsb', BitVec.getLsbD_append]
  interval_cases i <;> rfl

@[simp] theorem funct3Of_encS (imm : BitVec 12) (rs2 rs1 : RegIdx) (f3 : BitVec 3) (op : BitVec 7) :
    funct3Of (encS imm rs2 rs1 f3 op) = f3 := by
  refine BitVec.eq_of_getLsbD_eq fun i hi => ?_
  simp only [funct3Of, encS, BitVec.getLsbD_extractLsb', BitVec.getLsbD_append]
  interval_cases i <;> rfl

@[simp] theorem rs1Of_encS (imm : BitVec 12) (rs2 rs1 : RegIdx) (f3 : BitVec 3) (op : BitVec 7) :
    rs1Of (encS imm rs2 rs1 f3 op) = rs1 := by
  refine BitVec.eq_of_getLsbD_eq fun i hi => ?_
  simp only [rs1Of, encS, BitVec.getLsbD_extractLsb', BitVec.getLsbD_append]
  interval_cases i <;> rfl

@[simp] theorem rs2Of_encS (imm : BitVec 12) (rs2 rs1 : RegIdx) (f3 : BitVec 3) (op : BitVec 7) :
    rs2Of (encS imm rs2 rs1 f3 op) = rs2 := by
  refine BitVec.eq_of_getLsbD_eq fun i hi => ?_
  simp only [rs2Of, encS, BitVec.getLsbD_extractLsb', BitVec.getLsbD_append]
  interval_cases i <;> rfl

@[simp] theorem immSOf_encS (imm : BitVec 12) (rs2 rs1 : RegIdx) (f3 : BitVec 3) (op : BitVec 7) :
    immSOf (encS imm rs2 rs1 f3 op) = imm := by
  refine BitVec.eq_of_getLsbD_eq fun i hi => ?_
  simp only [immSOf, encS, BitVec.getLsbD_extractLsb', BitVec.getLsbD_append]
  interval_cases i <;> rfl

/-! ### encB -/

@[simp] theorem opcodeOf_encB (imm : BitVec 13) (rs2 rs1 : RegIdx) (f3 : BitVec 3) (op : BitVec 7) :
    opcodeOf (encB imm rs2 rs1 f3 op) = op := by
  refine BitVec.eq_of_getLsbD_eq fun i hi => ?_
  simp only [opcodeOf, encB, BitVec.getLsbD_extractLsb', BitVec.getLsbD_append]
  interval_cases i <;> rfl

@[simp] theorem funct3Of_encB (imm : BitVec 13) (rs2 rs1 : RegIdx) (f3 : BitVec 3) (op : BitVec 7) :
    funct3Of (encB imm rs2 rs1 f3 op) = f3 := by
  refine BitVec.eq_of_getLsbD_eq fun i hi => ?_
  simp only [funct3Of, encB, BitVec.getLsbD_extractLsb', BitVec.getLsbD_append]
  interval_cases i <;> rfl

@[simp] theorem rs1Of_encB (imm : BitVec 13) (rs2 rs1 : RegIdx) (f3 : BitVec 3) (op : BitVec 7) :
    rs1Of (encB imm rs2 rs1 f3 op) = rs1 := by
  refine BitVec.eq_of_getLsbD_eq fun i hi => ?_
  simp only [rs1Of, encB, BitVec.getLsbD_extractLsb', BitVec.getLsbD_append]
  interval_cases i <;> rfl

@[simp] theorem rs2Of_encB (imm : BitVec 13) (rs2 rs1 : RegIdx) (f3 : BitVec 3) (op : BitVec 7) :
    rs2Of (encB imm rs2 rs1 f3 op) = rs2 := by
  refine BitVec.eq_of_getLsbD_eq fun i hi => ?_
  simp only [rs2Of, encB, BitVec.getLsbD_extractLsb', BitVec.getLsbD_append]
  interval_cases i <;> rfl

/-! ### encU -/

@[simp] theorem opcodeOf_encU (imm20 : BitVec 20) (rd : RegIdx) (op : BitVec 7) :
    opcodeOf (encU imm20 rd op) = op := by
  refine BitVec.eq_of_getLsbD_eq fun i hi => ?_
  simp only [opcodeOf, encU, BitVec.getLsbD_extractLsb', BitVec.getLsbD_append]
  interval_cases i <;> rfl

@[simp] theorem rdOf_encU (imm20 : BitVec 20) (rd : RegIdx) (op : BitVec 7) :
    rdOf (encU imm20 rd op) = rd := by
  refine BitVec.eq_of_getLsbD_eq fun i hi => ?_
  simp only [rdOf, encU, BitVec.getLsbD_extractLsb', BitVec.getLsbD_append]
  interval_cases i <;> rfl

@[simp] theorem imm20Of_encU (imm20 : BitVec 20) (rd : RegIdx) (op : BitVec 7) :
    imm20Of (encU imm20 rd op) = imm20 := by
  refine BitVec.eq_of_getLsbD_eq fun i hi => ?_
  simp only [imm20Of, encU, BitVec.getLsbD_extractLsb', BitVec.getLsbD_append]
  interval_cases i <;> rfl

/-! ### encJ -/

@[simp] theorem opcodeOf_encJ (imm : BitVec 21) (rd : RegIdx) (op : BitVec 7) :
    opcodeOf (encJ imm rd op) = op := by
  refine BitVec.eq_of_getLsbD_eq fun i hi => ?_
  simp only [opcodeOf, encJ, BitVec.getLsbD_extractLsb', BitVec.getLsbD_append]
  interval_cases i <;> rfl

@[simp] theorem rdOf_encJ (imm : BitVec 21) (rd : RegIdx) (op : BitVec 7) :
    rdOf (encJ imm rd op) = rd := by
  refine BitVec.eq_of_getLsbD_eq fun i hi => ?_
  simp only [rdOf, encJ, BitVec.getLsbD_extractLsb', BitVec.getLsbD_append]
  interval_cases i <;> rfl

/-- An even offset comes back whole (R88). -/
theorem immBOf_encB (imm : BitVec 13) (even : imm.getLsbD 0 = false) (rs2 rs1 : RegIdx) (f3 : BitVec 3) (op : BitVec 7) :
    immBOf (encB imm rs2 rs1 f3 op) = imm := by
  refine BitVec.eq_of_getLsbD_eq fun i hi => ?_
  simp only [immBOf, encB, BitVec.getLsbD_extractLsb', BitVec.getLsbD_append]
  interval_cases i
  · exact even.symm
  all_goals rfl

/-- An even offset comes back whole (R88). -/
theorem immJOf_encJ (imm : BitVec 21) (even : imm.getLsbD 0 = false) (rd : RegIdx) (op : BitVec 7) :
    immJOf (encJ imm rd op) = imm := by
  refine BitVec.eq_of_getLsbD_eq fun i hi => ?_
  simp only [immJOf, encJ, BitVec.getLsbD_extractLsb', BitVec.getLsbD_append]
  interval_cases i
  · exact even.symm
  all_goals rfl

/-! ### Words from their fields -/

theorem encR_fields (w : Word) :
    encR (funct7Of w) (rs2Of w) (rs1Of w) (funct3Of w) (rdOf w) (opcodeOf w) = w := by
  refine BitVec.eq_of_getLsbD_eq fun i hi => ?_
  simp only [encR, funct7Of, rs2Of, rs1Of, funct3Of, rdOf, opcodeOf, BitVec.getLsbD_extractLsb', BitVec.getLsbD_append]
  interval_cases i <;> rfl

theorem encI_fields (w : Word) :
    encI (immIOf w) (rs1Of w) (funct3Of w) (rdOf w) (opcodeOf w) = w := by
  refine BitVec.eq_of_getLsbD_eq fun i hi => ?_
  simp only [encI, immIOf, rs1Of, funct3Of, rdOf, opcodeOf, BitVec.getLsbD_extractLsb', BitVec.getLsbD_append]
  interval_cases i <;> rfl

theorem encS_fields (w : Word) :
    encS (immSOf w) (rs2Of w) (rs1Of w) (funct3Of w) (opcodeOf w) = w := by
  refine BitVec.eq_of_getLsbD_eq fun i hi => ?_
  simp only [encS, immSOf, rs2Of, rs1Of, funct3Of, opcodeOf, BitVec.getLsbD_extractLsb', BitVec.getLsbD_append]
  interval_cases i <;> rfl

theorem encB_fields (w : Word) :
    encB (immBOf w) (rs2Of w) (rs1Of w) (funct3Of w) (opcodeOf w) = w := by
  refine BitVec.eq_of_getLsbD_eq fun i hi => ?_
  simp only [encB, immBOf, rs2Of, rs1Of, funct3Of, opcodeOf, BitVec.getLsbD_extractLsb', BitVec.getLsbD_append]
  interval_cases i <;> rfl

theorem encU_fields (w : Word) :
    encU (imm20Of w) (rdOf w) (opcodeOf w) = w := by
  refine BitVec.eq_of_getLsbD_eq fun i hi => ?_
  simp only [encU, imm20Of, rdOf, opcodeOf, BitVec.getLsbD_extractLsb', BitVec.getLsbD_append]
  interval_cases i <;> rfl

theorem encJ_fields (w : Word) :
    encJ (immJOf w) (rdOf w) (opcodeOf w) = w := by
  refine BitVec.eq_of_getLsbD_eq fun i hi => ?_
  simp only [encJ, immJOf, rdOf, opcodeOf, BitVec.getLsbD_extractLsb', BitVec.getLsbD_append]
  interval_cases i <;> rfl

theorem shamtOf_eq_rs2Of (w : Word) : shamtOf w = rs2Of w := rfl

/-- Every offset the decoder reads from a B word is even (R71). -/
theorem immBOf_even (w : Word) : (immBOf w).getLsbD 0 = false := by
  simp only [immBOf, BitVec.getLsbD_append]
  rfl

/-- Every offset the decoder reads from a J word is even (R73). -/
theorem immJOf_even (w : Word) : (immJOf w).getLsbD 0 = false := by
  simp only [immJOf, BitVec.getLsbD_append]
  rfl

/-! ### Fields fixed by a mask of the opcode table -/

/-- A mask that covers bits 6:0 fixes opcodeOf. -/
theorem opcodeOf_of_mask {w mask p : Word} (h : w &&& mask = p) (hm : opcodeOf mask = BitVec.allOnes _) : opcodeOf w = opcodeOf p := by
  have := congrArg opcodeOf h
  simp only [opcodeOf, BitVec.extractLsb'_and] at this hm ⊢
  rwa [hm, BitVec.and_allOnes] at this

/-- A mask that covers bits 14:12 fixes funct3Of. -/
theorem funct3Of_of_mask {w mask p : Word} (h : w &&& mask = p) (hm : funct3Of mask = BitVec.allOnes _) : funct3Of w = funct3Of p := by
  have := congrArg funct3Of h
  simp only [funct3Of, BitVec.extractLsb'_and] at this hm ⊢
  rwa [hm, BitVec.and_allOnes] at this

/-- A mask that covers bits 31:25 fixes funct7Of. -/
theorem funct7Of_of_mask {w mask p : Word} (h : w &&& mask = p) (hm : funct7Of mask = BitVec.allOnes _) : funct7Of w = funct7Of p := by
  have := congrArg funct7Of h
  simp only [funct7Of, BitVec.extractLsb'_and] at this hm ⊢
  rwa [hm, BitVec.and_allOnes] at this

/-- A mask that covers bits 31:20 fixes immIOf. -/
theorem immIOf_of_mask {w mask p : Word} (h : w &&& mask = p) (hm : immIOf mask = BitVec.allOnes _) : immIOf w = immIOf p := by
  have := congrArg immIOf h
  simp only [immIOf, BitVec.extractLsb'_and] at this hm ⊢
  rwa [hm, BitVec.and_allOnes] at this

/-! ### Byte order -/

/-- A word laid out in memory order and read back is the word (R42, R43). -/
theorem leValue_leBytes_four (w : Word) : leValue (leBytes 4 w) = w := by
  refine BitVec.eq_of_getLsbD_eq fun i hi => ?_
  simp only [leBytes, leValue, BitVec.getLsbD_or, BitVec.getLsbD_setWidth, BitVec.getLsbD_shiftLeft,
    BitVec.getLsbD_ushiftRight, BitVec.getLsbD_zero]
  interval_cases i <;> simp

/-! ### Fields as numbers -/

theorem opcodeOf_toNat (w : Word) : (opcodeOf w).toNat = w.toNat % 128 := by simp [opcodeOf, BitVec.extractLsb'_toNat]

theorem funct3Of_toNat (w : Word) : (funct3Of w).toNat = w.toNat / 2 ^ 12 % 8 := by
  simp [funct3Of, BitVec.extractLsb'_toNat, Nat.shiftRight_eq_div_pow]

theorem funct7Of_toNat (w : Word) : (funct7Of w).toNat = w.toNat / 2 ^ 25 := by
  have := w.isLt
  simp only [funct7Of, BitVec.extractLsb'_toNat, Nat.shiftRight_eq_div_pow]
  omega

theorem immIOf_toNat (w : Word) : (immIOf w).toNat = w.toNat / 2 ^ 20 := by
  have := w.isLt
  simp only [immIOf, BitVec.extractLsb'_toNat, Nat.shiftRight_eq_div_pow]
  omega

/-! ### The table's choices -/

/-- The eight values of funct3. -/
theorem funct3_values (f : BitVec 3) :
    f = 0#3 ∨ f = 1#3 ∨ f = 2#3 ∨ f = 3#3 ∨ f = 4#3 ∨ f = 5#3 ∨ f = 6#3 ∨ f = 7#3 := by
  have := f.isLt
  bv_omega

/-- What a line of the table of R75 selects, by funct3. -/
theorem byFunct3_cases (w : Word) (d0 d1 d2 d3 d4 d5 d6 d7 : Decoded) :
    (funct3Of w = 0#3 ∧ byFunct3 w d0 d1 d2 d3 d4 d5 d6 d7 = d0) ∨
    (funct3Of w = 1#3 ∧ byFunct3 w d0 d1 d2 d3 d4 d5 d6 d7 = d1) ∨
    (funct3Of w = 2#3 ∧ byFunct3 w d0 d1 d2 d3 d4 d5 d6 d7 = d2) ∨
    (funct3Of w = 3#3 ∧ byFunct3 w d0 d1 d2 d3 d4 d5 d6 d7 = d3) ∨
    (funct3Of w = 4#3 ∧ byFunct3 w d0 d1 d2 d3 d4 d5 d6 d7 = d4) ∨
    (funct3Of w = 5#3 ∧ byFunct3 w d0 d1 d2 d3 d4 d5 d6 d7 = d5) ∨
    (funct3Of w = 6#3 ∧ byFunct3 w d0 d1 d2 d3 d4 d5 d6 d7 = d6) ∨
    (funct3Of w = 7#3 ∧ byFunct3 w d0 d1 d2 d3 d4 d5 d6 d7 = d7) := by
  unfold byFunct3
  rcases funct3_values (funct3Of w) with h | h | h | h | h | h | h | h <;> simp [h]

/-- What funct7 selects (R76). -/
theorem byFunct7_cases (w : Word) (d0 d1 : Decoded) :
    (funct7Of w = 0#7 ∧ byFunct7 w d0 d1 = d0) ∨ (funct7Of w = funct7Alt ∧ byFunct7 w d0 d1 = d1) ∨
    byFunct7 w d0 d1 = .reserved := by
  unfold byFunct7
  by_cases h : funct7Of w = 0#7
  · exact .inl ⟨h, if_pos h⟩
  · by_cases h' : funct7Of w = funct7Alt
    · exact .inr (.inl ⟨h', by rw [if_neg h, if_pos h']⟩)
    · exact .inr (.inr (by rw [if_neg h, if_neg h']))

end Sys2Proof
end

