-- ==== Sys2Proof/Laws/State.lean ====
section
/-! SUPPORT. One lemma per field and update of the state, and per update and way of looking at it, each true by rfl.  No later
proof unfolds a record update. -/

namespace Sys2Proof.Machine.State

/-! ### setReg -/

@[simp] theorem setReg_params (s : State) (r : RegIdx) (v : Word) : (s.setReg r v).params = s.params := rfl
@[simp] theorem setReg_regs (s : State) (r : RegIdx) (v : Word) : (s.setReg r v).regs = writeRegs s.regs r v := rfl
@[simp] theorem setReg_pc (s : State) (r : RegIdx) (v : Word) : (s.setReg r v).pc = s.pc := rfl
@[simp] theorem setReg_mem (s : State) (r : RegIdx) (v : Word) : (s.setReg r v).mem = s.mem := rfl
@[simp] theorem setReg_paused (s : State) (r : RegIdx) (v : Word) : (s.setReg r v).paused = s.paused := rfl
@[simp] theorem setReg_stepReq (s : State) (r : RegIdx) (v : Word) : (s.setReg r v).stepReq = s.stepReq := rfl
@[simp] theorem setReg_ecallPending (s : State) (r : RegIdx) (v : Word) : (s.setReg r v).ecallPending = s.ecallPending := rfl
@[simp] theorem setReg_exited (s : State) (r : RegIdx) (v : Word) : (s.setReg r v).exited = s.exited := rfl
@[simp] theorem setReg_haltReason (s : State) (r : RegIdx) (v : Word) : (s.setReg r v).haltReason = s.haltReason := rfl
@[simp] theorem setReg_trace (s : State) (r : RegIdx) (v : Word) : (s.setReg r v).trace = s.trace := rfl
@[simp] theorem setReg_diag (s : State) (r : RegIdx) (v : Word) : (s.setReg r v).diag = s.diag := rfl
@[simp] theorem setReg_led (s : State) (r : RegIdx) (v : Word) : (s.setReg r v).led = s.led := rfl
@[simp] theorem setReg_buttons (s : State) (r : RegIdx) (v : Word) : (s.setReg r v).buttons = s.buttons := rfl
@[simp] theorem setReg_switches (s : State) (r : RegIdx) (v : Word) : (s.setReg r v).switches = s.switches := rfl
@[simp] theorem setReg_images (s : State) (r : RegIdx) (v : Word) : (s.setReg r v).images = s.images := rfl
@[simp] theorem setReg_resetCount (s : State) (r : RegIdx) (v : Word) : (s.setReg r v).resetCount = s.resetCount := rfl
@[simp] theorem setReg_freeSwitches (s : State) (r : RegIdx) (v : Word) : (s.setReg r v).freeSwitches = s.freeSwitches := rfl
@[simp] theorem setReg_freeButtons (s : State) (r : RegIdx) (v : Word) : (s.setReg r v).freeButtons = s.freeButtons := rfl

/-! ### setPc -/

@[simp] theorem setPc_params (s : State) (p : Word) : (s.setPc p).params = s.params := rfl
@[simp] theorem setPc_regs (s : State) (p : Word) : (s.setPc p).regs = s.regs := rfl
@[simp] theorem setPc_pc (s : State) (p : Word) : (s.setPc p).pc = p := rfl
@[simp] theorem setPc_mem (s : State) (p : Word) : (s.setPc p).mem = s.mem := rfl
@[simp] theorem setPc_paused (s : State) (p : Word) : (s.setPc p).paused = s.paused := rfl
@[simp] theorem setPc_stepReq (s : State) (p : Word) : (s.setPc p).stepReq = s.stepReq := rfl
@[simp] theorem setPc_ecallPending (s : State) (p : Word) : (s.setPc p).ecallPending = s.ecallPending := rfl
@[simp] theorem setPc_exited (s : State) (p : Word) : (s.setPc p).exited = s.exited := rfl
@[simp] theorem setPc_haltReason (s : State) (p : Word) : (s.setPc p).haltReason = s.haltReason := rfl
@[simp] theorem setPc_trace (s : State) (p : Word) : (s.setPc p).trace = s.trace := rfl
@[simp] theorem setPc_diag (s : State) (p : Word) : (s.setPc p).diag = s.diag := rfl
@[simp] theorem setPc_led (s : State) (p : Word) : (s.setPc p).led = s.led := rfl
@[simp] theorem setPc_buttons (s : State) (p : Word) : (s.setPc p).buttons = s.buttons := rfl
@[simp] theorem setPc_switches (s : State) (p : Word) : (s.setPc p).switches = s.switches := rfl
@[simp] theorem setPc_images (s : State) (p : Word) : (s.setPc p).images = s.images := rfl
@[simp] theorem setPc_resetCount (s : State) (p : Word) : (s.setPc p).resetCount = s.resetCount := rfl
@[simp] theorem setPc_freeSwitches (s : State) (p : Word) : (s.setPc p).freeSwitches = s.freeSwitches := rfl
@[simp] theorem setPc_freeButtons (s : State) (p : Word) : (s.setPc p).freeButtons = s.freeButtons := rfl

/-! ### advance -/

@[simp] theorem advance_params (s : State) : (s.advance).params = s.params := rfl
@[simp] theorem advance_regs (s : State) : (s.advance).regs = s.regs := rfl
@[simp] theorem advance_pc (s : State) : (s.advance).pc = s.nextPc := rfl
@[simp] theorem advance_mem (s : State) : (s.advance).mem = s.mem := rfl
@[simp] theorem advance_paused (s : State) : (s.advance).paused = s.paused := rfl
@[simp] theorem advance_stepReq (s : State) : (s.advance).stepReq = s.stepReq := rfl
@[simp] theorem advance_ecallPending (s : State) : (s.advance).ecallPending = s.ecallPending := rfl
@[simp] theorem advance_exited (s : State) : (s.advance).exited = s.exited := rfl
@[simp] theorem advance_haltReason (s : State) : (s.advance).haltReason = s.haltReason := rfl
@[simp] theorem advance_trace (s : State) : (s.advance).trace = s.trace := rfl
@[simp] theorem advance_diag (s : State) : (s.advance).diag = s.diag := rfl
@[simp] theorem advance_led (s : State) : (s.advance).led = s.led := rfl
@[simp] theorem advance_buttons (s : State) : (s.advance).buttons = s.buttons := rfl
@[simp] theorem advance_switches (s : State) : (s.advance).switches = s.switches := rfl
@[simp] theorem advance_images (s : State) : (s.advance).images = s.images := rfl
@[simp] theorem advance_resetCount (s : State) : (s.advance).resetCount = s.resetCount := rfl
@[simp] theorem advance_freeSwitches (s : State) : (s.advance).freeSwitches = s.freeSwitches := rfl
@[simp] theorem advance_freeButtons (s : State) : (s.advance).freeButtons = s.freeButtons := rfl

/-! ### memWrite -/

@[simp] theorem memWrite_params (s : State) (a : Word) (n : Nat) (v : Word) : (s.memWrite a n v).params = s.params := rfl
@[simp] theorem memWrite_regs (s : State) (a : Word) (n : Nat) (v : Word) : (s.memWrite a n v).regs = s.regs := rfl
@[simp] theorem memWrite_pc (s : State) (a : Word) (n : Nat) (v : Word) : (s.memWrite a n v).pc = s.pc := rfl
@[simp] theorem memWrite_mem (s : State) (a : Word) (n : Nat) (v : Word) : (s.memWrite a n v).mem = s.mem.writeBytes a (leBytes n v) := rfl
@[simp] theorem memWrite_paused (s : State) (a : Word) (n : Nat) (v : Word) : (s.memWrite a n v).paused = s.paused := rfl
@[simp] theorem memWrite_stepReq (s : State) (a : Word) (n : Nat) (v : Word) : (s.memWrite a n v).stepReq = s.stepReq := rfl
@[simp] theorem memWrite_ecallPending (s : State) (a : Word) (n : Nat) (v : Word) : (s.memWrite a n v).ecallPending = s.ecallPending := rfl
@[simp] theorem memWrite_exited (s : State) (a : Word) (n : Nat) (v : Word) : (s.memWrite a n v).exited = s.exited := rfl
@[simp] theorem memWrite_haltReason (s : State) (a : Word) (n : Nat) (v : Word) : (s.memWrite a n v).haltReason = s.haltReason := rfl
@[simp] theorem memWrite_trace (s : State) (a : Word) (n : Nat) (v : Word) : (s.memWrite a n v).trace = s.trace := rfl
@[simp] theorem memWrite_diag (s : State) (a : Word) (n : Nat) (v : Word) : (s.memWrite a n v).diag = s.diag := rfl
@[simp] theorem memWrite_led (s : State) (a : Word) (n : Nat) (v : Word) : (s.memWrite a n v).led = s.led := rfl
@[simp] theorem memWrite_buttons (s : State) (a : Word) (n : Nat) (v : Word) : (s.memWrite a n v).buttons = s.buttons := rfl
@[simp] theorem memWrite_switches (s : State) (a : Word) (n : Nat) (v : Word) : (s.memWrite a n v).switches = s.switches := rfl
@[simp] theorem memWrite_images (s : State) (a : Word) (n : Nat) (v : Word) : (s.memWrite a n v).images = s.images := rfl
@[simp] theorem memWrite_resetCount (s : State) (a : Word) (n : Nat) (v : Word) : (s.memWrite a n v).resetCount = s.resetCount := rfl
@[simp] theorem memWrite_freeSwitches (s : State) (a : Word) (n : Nat) (v : Word) : (s.memWrite a n v).freeSwitches = s.freeSwitches := rfl
@[simp] theorem memWrite_freeButtons (s : State) (a : Word) (n : Nat) (v : Word) : (s.memWrite a n v).freeButtons = s.freeButtons := rfl

/-! ### emitTrace -/

@[simp] theorem emitTrace_params (s : State) (e : TraceEvent) : (s.emitTrace e).params = s.params := rfl
@[simp] theorem emitTrace_regs (s : State) (e : TraceEvent) : (s.emitTrace e).regs = s.regs := rfl
@[simp] theorem emitTrace_pc (s : State) (e : TraceEvent) : (s.emitTrace e).pc = s.pc := rfl
@[simp] theorem emitTrace_mem (s : State) (e : TraceEvent) : (s.emitTrace e).mem = s.mem := rfl
@[simp] theorem emitTrace_paused (s : State) (e : TraceEvent) : (s.emitTrace e).paused = s.paused := rfl
@[simp] theorem emitTrace_stepReq (s : State) (e : TraceEvent) : (s.emitTrace e).stepReq = s.stepReq := rfl
@[simp] theorem emitTrace_ecallPending (s : State) (e : TraceEvent) : (s.emitTrace e).ecallPending = s.ecallPending := rfl
@[simp] theorem emitTrace_exited (s : State) (e : TraceEvent) : (s.emitTrace e).exited = s.exited := rfl
@[simp] theorem emitTrace_haltReason (s : State) (e : TraceEvent) : (s.emitTrace e).haltReason = s.haltReason := rfl
@[simp] theorem emitTrace_trace (s : State) (e : TraceEvent) : (s.emitTrace e).trace = s.trace ++ [e] := rfl
@[simp] theorem emitTrace_diag (s : State) (e : TraceEvent) : (s.emitTrace e).diag = s.diag := rfl
@[simp] theorem emitTrace_led (s : State) (e : TraceEvent) : (s.emitTrace e).led = s.led := rfl
@[simp] theorem emitTrace_buttons (s : State) (e : TraceEvent) : (s.emitTrace e).buttons = s.buttons := rfl
@[simp] theorem emitTrace_switches (s : State) (e : TraceEvent) : (s.emitTrace e).switches = s.switches := rfl
@[simp] theorem emitTrace_images (s : State) (e : TraceEvent) : (s.emitTrace e).images = s.images := rfl
@[simp] theorem emitTrace_resetCount (s : State) (e : TraceEvent) : (s.emitTrace e).resetCount = s.resetCount := rfl
@[simp] theorem emitTrace_freeSwitches (s : State) (e : TraceEvent) : (s.emitTrace e).freeSwitches = s.freeSwitches := rfl
@[simp] theorem emitTrace_freeButtons (s : State) (e : TraceEvent) : (s.emitTrace e).freeButtons = s.freeButtons := rfl

/-! ### emitDiag -/

@[simp] theorem emitDiag_params (s : State) (e : DiagEvent) : (s.emitDiag e).params = s.params := rfl
@[simp] theorem emitDiag_regs (s : State) (e : DiagEvent) : (s.emitDiag e).regs = s.regs := rfl
@[simp] theorem emitDiag_pc (s : State) (e : DiagEvent) : (s.emitDiag e).pc = s.pc := rfl
@[simp] theorem emitDiag_mem (s : State) (e : DiagEvent) : (s.emitDiag e).mem = s.mem := rfl
@[simp] theorem emitDiag_paused (s : State) (e : DiagEvent) : (s.emitDiag e).paused = s.paused := rfl
@[simp] theorem emitDiag_stepReq (s : State) (e : DiagEvent) : (s.emitDiag e).stepReq = s.stepReq := rfl
@[simp] theorem emitDiag_ecallPending (s : State) (e : DiagEvent) : (s.emitDiag e).ecallPending = s.ecallPending := rfl
@[simp] theorem emitDiag_exited (s : State) (e : DiagEvent) : (s.emitDiag e).exited = s.exited := rfl
@[simp] theorem emitDiag_haltReason (s : State) (e : DiagEvent) : (s.emitDiag e).haltReason = s.haltReason := rfl
@[simp] theorem emitDiag_trace (s : State) (e : DiagEvent) : (s.emitDiag e).trace = s.trace := rfl
@[simp] theorem emitDiag_diag (s : State) (e : DiagEvent) : (s.emitDiag e).diag = s.diag ++ [e] := rfl
@[simp] theorem emitDiag_led (s : State) (e : DiagEvent) : (s.emitDiag e).led = s.led := rfl
@[simp] theorem emitDiag_buttons (s : State) (e : DiagEvent) : (s.emitDiag e).buttons = s.buttons := rfl
@[simp] theorem emitDiag_switches (s : State) (e : DiagEvent) : (s.emitDiag e).switches = s.switches := rfl
@[simp] theorem emitDiag_images (s : State) (e : DiagEvent) : (s.emitDiag e).images = s.images := rfl
@[simp] theorem emitDiag_resetCount (s : State) (e : DiagEvent) : (s.emitDiag e).resetCount = s.resetCount := rfl
@[simp] theorem emitDiag_freeSwitches (s : State) (e : DiagEvent) : (s.emitDiag e).freeSwitches = s.freeSwitches := rfl
@[simp] theorem emitDiag_freeButtons (s : State) (e : DiagEvent) : (s.emitDiag e).freeButtons = s.freeButtons := rfl

/-! ### setEcallPending -/

@[simp] theorem setEcallPending_params (s : State) (b : Bool) : (s.setEcallPending b).params = s.params := rfl
@[simp] theorem setEcallPending_regs (s : State) (b : Bool) : (s.setEcallPending b).regs = s.regs := rfl
@[simp] theorem setEcallPending_pc (s : State) (b : Bool) : (s.setEcallPending b).pc = s.pc := rfl
@[simp] theorem setEcallPending_mem (s : State) (b : Bool) : (s.setEcallPending b).mem = s.mem := rfl
@[simp] theorem setEcallPending_paused (s : State) (b : Bool) : (s.setEcallPending b).paused = s.paused := rfl
@[simp] theorem setEcallPending_stepReq (s : State) (b : Bool) : (s.setEcallPending b).stepReq = s.stepReq := rfl
@[simp] theorem setEcallPending_ecallPending (s : State) (b : Bool) : (s.setEcallPending b).ecallPending = b := rfl
@[simp] theorem setEcallPending_exited (s : State) (b : Bool) : (s.setEcallPending b).exited = s.exited := rfl
@[simp] theorem setEcallPending_haltReason (s : State) (b : Bool) : (s.setEcallPending b).haltReason = s.haltReason := rfl
@[simp] theorem setEcallPending_trace (s : State) (b : Bool) : (s.setEcallPending b).trace = s.trace := rfl
@[simp] theorem setEcallPending_diag (s : State) (b : Bool) : (s.setEcallPending b).diag = s.diag := rfl
@[simp] theorem setEcallPending_led (s : State) (b : Bool) : (s.setEcallPending b).led = s.led := rfl
@[simp] theorem setEcallPending_buttons (s : State) (b : Bool) : (s.setEcallPending b).buttons = s.buttons := rfl
@[simp] theorem setEcallPending_switches (s : State) (b : Bool) : (s.setEcallPending b).switches = s.switches := rfl
@[simp] theorem setEcallPending_images (s : State) (b : Bool) : (s.setEcallPending b).images = s.images := rfl
@[simp] theorem setEcallPending_resetCount (s : State) (b : Bool) : (s.setEcallPending b).resetCount = s.resetCount := rfl
@[simp] theorem setEcallPending_freeSwitches (s : State) (b : Bool) : (s.setEcallPending b).freeSwitches = s.freeSwitches := rfl
@[simp] theorem setEcallPending_freeButtons (s : State) (b : Bool) : (s.setEcallPending b).freeButtons = s.freeButtons := rfl

/-! ### setPaused -/

@[simp] theorem setPaused_params (s : State) (b : Bool) : (s.setPaused b).params = s.params := rfl
@[simp] theorem setPaused_regs (s : State) (b : Bool) : (s.setPaused b).regs = s.regs := rfl
@[simp] theorem setPaused_pc (s : State) (b : Bool) : (s.setPaused b).pc = s.pc := rfl
@[simp] theorem setPaused_mem (s : State) (b : Bool) : (s.setPaused b).mem = s.mem := rfl
@[simp] theorem setPaused_paused (s : State) (b : Bool) : (s.setPaused b).paused = b := rfl
@[simp] theorem setPaused_stepReq (s : State) (b : Bool) : (s.setPaused b).stepReq = s.stepReq := rfl
@[simp] theorem setPaused_ecallPending (s : State) (b : Bool) : (s.setPaused b).ecallPending = s.ecallPending := rfl
@[simp] theorem setPaused_exited (s : State) (b : Bool) : (s.setPaused b).exited = s.exited := rfl
@[simp] theorem setPaused_haltReason (s : State) (b : Bool) : (s.setPaused b).haltReason = s.haltReason := rfl
@[simp] theorem setPaused_trace (s : State) (b : Bool) : (s.setPaused b).trace = s.trace := rfl
@[simp] theorem setPaused_diag (s : State) (b : Bool) : (s.setPaused b).diag = s.diag := rfl
@[simp] theorem setPaused_led (s : State) (b : Bool) : (s.setPaused b).led = s.led := rfl
@[simp] theorem setPaused_buttons (s : State) (b : Bool) : (s.setPaused b).buttons = s.buttons := rfl
@[simp] theorem setPaused_switches (s : State) (b : Bool) : (s.setPaused b).switches = s.switches := rfl
@[simp] theorem setPaused_images (s : State) (b : Bool) : (s.setPaused b).images = s.images := rfl
@[simp] theorem setPaused_resetCount (s : State) (b : Bool) : (s.setPaused b).resetCount = s.resetCount := rfl
@[simp] theorem setPaused_freeSwitches (s : State) (b : Bool) : (s.setPaused b).freeSwitches = s.freeSwitches := rfl
@[simp] theorem setPaused_freeButtons (s : State) (b : Bool) : (s.setPaused b).freeButtons = s.freeButtons := rfl

/-! ### setHalted -/

@[simp] theorem setHalted_params (s : State) (h : HaltReason) : (s.setHalted h).params = s.params := rfl
@[simp] theorem setHalted_regs (s : State) (h : HaltReason) : (s.setHalted h).regs = s.regs := rfl
@[simp] theorem setHalted_pc (s : State) (h : HaltReason) : (s.setHalted h).pc = s.pc := rfl
@[simp] theorem setHalted_mem (s : State) (h : HaltReason) : (s.setHalted h).mem = s.mem := rfl
@[simp] theorem setHalted_paused (s : State) (h : HaltReason) : (s.setHalted h).paused = s.paused := rfl
@[simp] theorem setHalted_stepReq (s : State) (h : HaltReason) : (s.setHalted h).stepReq = s.stepReq := rfl
@[simp] theorem setHalted_ecallPending (s : State) (h : HaltReason) : (s.setHalted h).ecallPending = s.ecallPending := rfl
@[simp] theorem setHalted_exited (s : State) (h : HaltReason) : (s.setHalted h).exited = true := rfl
@[simp] theorem setHalted_haltReason (s : State) (h : HaltReason) : (s.setHalted h).haltReason = h := rfl
@[simp] theorem setHalted_trace (s : State) (h : HaltReason) : (s.setHalted h).trace = s.trace := rfl
@[simp] theorem setHalted_diag (s : State) (h : HaltReason) : (s.setHalted h).diag = s.diag := rfl
@[simp] theorem setHalted_led (s : State) (h : HaltReason) : (s.setHalted h).led = s.led := rfl
@[simp] theorem setHalted_buttons (s : State) (h : HaltReason) : (s.setHalted h).buttons = s.buttons := rfl
@[simp] theorem setHalted_switches (s : State) (h : HaltReason) : (s.setHalted h).switches = s.switches := rfl
@[simp] theorem setHalted_images (s : State) (h : HaltReason) : (s.setHalted h).images = s.images := rfl
@[simp] theorem setHalted_resetCount (s : State) (h : HaltReason) : (s.setHalted h).resetCount = s.resetCount := rfl
@[simp] theorem setHalted_freeSwitches (s : State) (h : HaltReason) : (s.setHalted h).freeSwitches = s.freeSwitches := rfl
@[simp] theorem setHalted_freeButtons (s : State) (h : HaltReason) : (s.setHalted h).freeButtons = s.freeButtons := rfl

/-! ### applySignals -/

@[simp] theorem applySignals_params (s : State) (b : Word) : (s.applySignals b).params = s.params := rfl
@[simp] theorem applySignals_regs (s : State) (b : Word) : (s.applySignals b).regs = s.regs := rfl
@[simp] theorem applySignals_pc (s : State) (b : Word) : (s.applySignals b).pc = s.pc := rfl
@[simp] theorem applySignals_mem (s : State) (b : Word) : (s.applySignals b).mem = s.mem := rfl
@[simp] theorem applySignals_paused (s : State) (b : Word) : (s.applySignals b).paused = (s.paused ^^ (toggleBit b && !s.exited)) := rfl
@[simp] theorem applySignals_stepReq (s : State) (b : Word) : (s.applySignals b).stepReq = (s.stepReq || (stepBit b && !s.exited)) := rfl
@[simp] theorem applySignals_ecallPending (s : State) (b : Word) : (s.applySignals b).ecallPending = s.ecallPending := rfl
@[simp] theorem applySignals_exited (s : State) (b : Word) : (s.applySignals b).exited = s.exited := rfl
@[simp] theorem applySignals_haltReason (s : State) (b : Word) : (s.applySignals b).haltReason = s.haltReason := rfl
@[simp] theorem applySignals_trace (s : State) (b : Word) : (s.applySignals b).trace = s.trace := rfl
@[simp] theorem applySignals_diag (s : State) (b : Word) : (s.applySignals b).diag = s.diag := rfl
@[simp] theorem applySignals_led (s : State) (b : Word) : (s.applySignals b).led = s.led := rfl
@[simp] theorem applySignals_buttons (s : State) (b : Word) : (s.applySignals b).buttons = s.buttons := rfl
@[simp] theorem applySignals_switches (s : State) (b : Word) : (s.applySignals b).switches = s.switches := rfl
@[simp] theorem applySignals_images (s : State) (b : Word) : (s.applySignals b).images = s.images := rfl
@[simp] theorem applySignals_resetCount (s : State) (b : Word) : (s.applySignals b).resetCount = s.resetCount := rfl
@[simp] theorem applySignals_freeSwitches (s : State) (b : Word) : (s.applySignals b).freeSwitches = s.freeSwitches := rfl
@[simp] theorem applySignals_freeButtons (s : State) (b : Word) : (s.applySignals b).freeButtons = s.freeButtons := rfl

/-! ### raise -/

@[simp] theorem raise_params (s : State) (f : Fatal) : (s.raise f).params = s.params := rfl
@[simp] theorem raise_regs (s : State) (f : Fatal) : (s.raise f).regs = s.regs := rfl
@[simp] theorem raise_pc (s : State) (f : Fatal) : (s.raise f).pc = s.pc := rfl
@[simp] theorem raise_mem (s : State) (f : Fatal) : (s.raise f).mem = s.mem := rfl
@[simp] theorem raise_paused (s : State) (f : Fatal) : (s.raise f).paused = s.paused := rfl
@[simp] theorem raise_stepReq (s : State) (f : Fatal) : (s.raise f).stepReq = s.stepReq := rfl
@[simp] theorem raise_ecallPending (s : State) (f : Fatal) : (s.raise f).ecallPending = false := rfl
@[simp] theorem raise_exited (s : State) (f : Fatal) : (s.raise f).exited = true := rfl
@[simp] theorem raise_haltReason (s : State) (f : Fatal) : (s.raise f).haltReason = .fatal f := rfl
@[simp] theorem raise_trace (s : State) (f : Fatal) : (s.raise f).trace = s.trace ++ [.fatalReport f] := rfl
@[simp] theorem raise_diag (s : State) (f : Fatal) : (s.raise f).diag = s.diag := rfl
@[simp] theorem raise_led (s : State) (f : Fatal) : (s.raise f).led = s.led := rfl
@[simp] theorem raise_buttons (s : State) (f : Fatal) : (s.raise f).buttons = s.buttons := rfl
@[simp] theorem raise_switches (s : State) (f : Fatal) : (s.raise f).switches = s.switches := rfl
@[simp] theorem raise_images (s : State) (f : Fatal) : (s.raise f).images = s.images := rfl
@[simp] theorem raise_resetCount (s : State) (f : Fatal) : (s.raise f).resetCount = s.resetCount := rfl
@[simp] theorem raise_freeSwitches (s : State) (f : Fatal) : (s.raise f).freeSwitches = s.freeSwitches := rfl
@[simp] theorem raise_freeButtons (s : State) (f : Fatal) : (s.raise f).freeButtons = s.freeButtons := rfl

/-! ### ackButtons -/

@[simp] theorem ackButtons_params (s : State) : (s.ackButtons).params = s.params := rfl
@[simp] theorem ackButtons_regs (s : State) : (s.ackButtons).regs = s.regs := rfl
@[simp] theorem ackButtons_pc (s : State) : (s.ackButtons).pc = s.pc := rfl
@[simp] theorem ackButtons_mem (s : State) : (s.ackButtons).mem = s.mem := rfl
@[simp] theorem ackButtons_paused (s : State) : (s.ackButtons).paused = s.paused := rfl
@[simp] theorem ackButtons_stepReq (s : State) : (s.ackButtons).stepReq = s.stepReq := rfl
@[simp] theorem ackButtons_ecallPending (s : State) : (s.ackButtons).ecallPending = s.ecallPending := rfl
@[simp] theorem ackButtons_exited (s : State) : (s.ackButtons).exited = s.exited := rfl
@[simp] theorem ackButtons_haltReason (s : State) : (s.ackButtons).haltReason = s.haltReason := rfl
@[simp] theorem ackButtons_trace (s : State) : (s.ackButtons).trace = s.trace := rfl
@[simp] theorem ackButtons_diag (s : State) : (s.ackButtons).diag = s.diag := rfl
@[simp] theorem ackButtons_led (s : State) : (s.ackButtons).led = s.led := rfl
@[simp] theorem ackButtons_buttons (s : State) : (s.ackButtons).buttons = s.buttons.tail := rfl
@[simp] theorem ackButtons_switches (s : State) : (s.ackButtons).switches = s.switches := rfl
@[simp] theorem ackButtons_images (s : State) : (s.ackButtons).images = s.images := rfl
@[simp] theorem ackButtons_resetCount (s : State) : (s.ackButtons).resetCount = s.resetCount := rfl
@[simp] theorem ackButtons_freeSwitches (s : State) : (s.ackButtons).freeSwitches = s.freeSwitches := rfl
@[simp] theorem ackButtons_freeButtons (s : State) : (s.ackButtons).freeButtons = if s.buttons.isEmpty then s.freeButtons + 1 else s.freeButtons := rfl

/-! ### takeSwitch -/

@[simp] theorem takeSwitch_params (s : State) : (s.takeSwitch).params = s.params := rfl
@[simp] theorem takeSwitch_regs (s : State) : (s.takeSwitch).regs = s.regs := rfl
@[simp] theorem takeSwitch_pc (s : State) : (s.takeSwitch).pc = s.pc := rfl
@[simp] theorem takeSwitch_mem (s : State) : (s.takeSwitch).mem = s.mem := rfl
@[simp] theorem takeSwitch_paused (s : State) : (s.takeSwitch).paused = s.paused := rfl
@[simp] theorem takeSwitch_stepReq (s : State) : (s.takeSwitch).stepReq = s.stepReq := rfl
@[simp] theorem takeSwitch_ecallPending (s : State) : (s.takeSwitch).ecallPending = s.ecallPending := rfl
@[simp] theorem takeSwitch_exited (s : State) : (s.takeSwitch).exited = s.exited := rfl
@[simp] theorem takeSwitch_haltReason (s : State) : (s.takeSwitch).haltReason = s.haltReason := rfl
@[simp] theorem takeSwitch_trace (s : State) : (s.takeSwitch).trace = s.trace := rfl
@[simp] theorem takeSwitch_diag (s : State) : (s.takeSwitch).diag = s.diag := rfl
@[simp] theorem takeSwitch_led (s : State) : (s.takeSwitch).led = s.led := rfl
@[simp] theorem takeSwitch_buttons (s : State) : (s.takeSwitch).buttons = s.buttons := rfl
@[simp] theorem takeSwitch_switches (s : State) : (s.takeSwitch).switches = s.switches.tail := rfl
@[simp] theorem takeSwitch_images (s : State) : (s.takeSwitch).images = s.images := rfl
@[simp] theorem takeSwitch_resetCount (s : State) : (s.takeSwitch).resetCount = s.resetCount := rfl
@[simp] theorem takeSwitch_freeSwitches (s : State) : (s.takeSwitch).freeSwitches = if s.switches.isEmpty then s.freeSwitches + 1 else s.freeSwitches := rfl
@[simp] theorem takeSwitch_freeButtons (s : State) : (s.takeSwitch).freeButtons = s.freeButtons := rfl

/-! ### refreshLed -/

@[simp] theorem refreshLed_params (s : State) : (s.refreshLed).params = s.params := rfl
@[simp] theorem refreshLed_regs (s : State) : (s.refreshLed).regs = s.regs := rfl
@[simp] theorem refreshLed_pc (s : State) : (s.refreshLed).pc = s.pc := rfl
@[simp] theorem refreshLed_mem (s : State) : (s.refreshLed).mem = s.mem := rfl
@[simp] theorem refreshLed_paused (s : State) : (s.refreshLed).paused = s.paused := rfl
@[simp] theorem refreshLed_stepReq (s : State) : (s.refreshLed).stepReq = s.stepReq := rfl
@[simp] theorem refreshLed_ecallPending (s : State) : (s.refreshLed).ecallPending = s.ecallPending := rfl
@[simp] theorem refreshLed_exited (s : State) : (s.refreshLed).exited = s.exited := rfl
@[simp] theorem refreshLed_haltReason (s : State) : (s.refreshLed).haltReason = s.haltReason := rfl
@[simp] theorem refreshLed_trace (s : State) : (s.refreshLed).trace = s.trace := rfl
@[simp] theorem refreshLed_diag (s : State) : (s.refreshLed).diag = s.diag := rfl
@[simp] theorem refreshLed_led (s : State) : (s.refreshLed).led = s.switchSample := rfl
@[simp] theorem refreshLed_buttons (s : State) : (s.refreshLed).buttons = s.buttons := rfl
@[simp] theorem refreshLed_switches (s : State) : (s.refreshLed).switches = s.switches.tail := rfl
@[simp] theorem refreshLed_images (s : State) : (s.refreshLed).images = s.images := rfl
@[simp] theorem refreshLed_resetCount (s : State) : (s.refreshLed).resetCount = s.resetCount := rfl
@[simp] theorem refreshLed_freeSwitches (s : State) : (s.refreshLed).freeSwitches = if s.switches.isEmpty then s.freeSwitches + 1 else s.freeSwitches := rfl
@[simp] theorem refreshLed_freeButtons (s : State) : (s.refreshLed).freeButtons = s.freeButtons := rfl

/-! ### poll -/

@[simp] theorem poll_params (s : State) : (s.poll).params = s.params := rfl
@[simp] theorem poll_regs (s : State) : (s.poll).regs = s.regs := rfl
@[simp] theorem poll_pc (s : State) : (s.poll).pc = s.pc := rfl
@[simp] theorem poll_mem (s : State) : (s.poll).mem = s.mem := rfl
@[simp] theorem poll_paused (s : State) : (s.poll).paused = s.paused := rfl
@[simp] theorem poll_stepReq (s : State) : (s.poll).stepReq = s.stepReq := rfl
@[simp] theorem poll_ecallPending (s : State) : (s.poll).ecallPending = s.ecallPending := rfl
@[simp] theorem poll_exited (s : State) : (s.poll).exited = s.exited := rfl
@[simp] theorem poll_haltReason (s : State) : (s.poll).haltReason = s.haltReason := rfl
@[simp] theorem poll_trace (s : State) : (s.poll).trace = s.trace := rfl
@[simp] theorem poll_diag (s : State) : (s.poll).diag = s.diag := rfl
@[simp] theorem poll_led (s : State) : (s.poll).led = s.switchSample := rfl
@[simp] theorem poll_buttons (s : State) : (s.poll).buttons = s.buttons.tail := rfl
@[simp] theorem poll_switches (s : State) : (s.poll).switches = s.switches.tail := rfl
@[simp] theorem poll_images (s : State) : (s.poll).images = s.images := rfl
@[simp] theorem poll_resetCount (s : State) : (s.poll).resetCount = s.resetCount := rfl
@[simp] theorem poll_freeSwitches (s : State) : (s.poll).freeSwitches = if s.switches.isEmpty then s.freeSwitches + 1 else s.freeSwitches := rfl
@[simp] theorem poll_freeButtons (s : State) : (s.poll).freeButtons = if s.buttons.isEmpty then s.freeButtons + 1 else s.freeButtons := rfl

/-! ### clearStepReq -/

@[simp] theorem clearStepReq_params (s : State) : (s.clearStepReq).params = s.params := rfl
@[simp] theorem clearStepReq_regs (s : State) : (s.clearStepReq).regs = s.regs := rfl
@[simp] theorem clearStepReq_pc (s : State) : (s.clearStepReq).pc = s.pc := rfl
@[simp] theorem clearStepReq_mem (s : State) : (s.clearStepReq).mem = s.mem := rfl
@[simp] theorem clearStepReq_paused (s : State) : (s.clearStepReq).paused = s.paused := rfl
@[simp] theorem clearStepReq_stepReq (s : State) : (s.clearStepReq).stepReq = false := rfl
@[simp] theorem clearStepReq_ecallPending (s : State) : (s.clearStepReq).ecallPending = s.ecallPending := rfl
@[simp] theorem clearStepReq_exited (s : State) : (s.clearStepReq).exited = s.exited := rfl
@[simp] theorem clearStepReq_haltReason (s : State) : (s.clearStepReq).haltReason = s.haltReason := rfl
@[simp] theorem clearStepReq_trace (s : State) : (s.clearStepReq).trace = s.trace := rfl
@[simp] theorem clearStepReq_diag (s : State) : (s.clearStepReq).diag = s.diag := rfl
@[simp] theorem clearStepReq_led (s : State) : (s.clearStepReq).led = s.led := rfl
@[simp] theorem clearStepReq_buttons (s : State) : (s.clearStepReq).buttons = s.buttons := rfl
@[simp] theorem clearStepReq_switches (s : State) : (s.clearStepReq).switches = s.switches := rfl
@[simp] theorem clearStepReq_images (s : State) : (s.clearStepReq).images = s.images := rfl
@[simp] theorem clearStepReq_resetCount (s : State) : (s.clearStepReq).resetCount = s.resetCount := rfl
@[simp] theorem clearStepReq_freeSwitches (s : State) : (s.clearStepReq).freeSwitches = s.freeSwitches := rfl
@[simp] theorem clearStepReq_freeButtons (s : State) : (s.clearStepReq).freeButtons = s.freeButtons := rfl

/-! ### clearForReset -/

@[simp] theorem clearForReset_params (s : State) : (s.clearForReset).params = s.params := rfl
@[simp] theorem clearForReset_regs (s : State) : (s.clearForReset).regs = Vector.replicate 32 0#32 := rfl
@[simp] theorem clearForReset_pc (s : State) : (s.clearForReset).pc = s.pc := rfl
@[simp] theorem clearForReset_mem (s : State) : (s.clearForReset).mem = s.mem := rfl
@[simp] theorem clearForReset_paused (s : State) : (s.clearForReset).paused = false := rfl
@[simp] theorem clearForReset_stepReq (s : State) : (s.clearForReset).stepReq = false := rfl
@[simp] theorem clearForReset_ecallPending (s : State) : (s.clearForReset).ecallPending = false := rfl
@[simp] theorem clearForReset_exited (s : State) : (s.clearForReset).exited = s.exited := rfl
@[simp] theorem clearForReset_haltReason (s : State) : (s.clearForReset).haltReason = s.haltReason := rfl
@[simp] theorem clearForReset_trace (s : State) : (s.clearForReset).trace = s.trace := rfl
@[simp] theorem clearForReset_diag (s : State) : (s.clearForReset).diag = s.diag := rfl
@[simp] theorem clearForReset_led (s : State) : (s.clearForReset).led = s.led := rfl
@[simp] theorem clearForReset_buttons (s : State) : (s.clearForReset).buttons = s.buttons := rfl
@[simp] theorem clearForReset_switches (s : State) : (s.clearForReset).switches = s.switches := rfl
@[simp] theorem clearForReset_images (s : State) : (s.clearForReset).images = s.images.tail := rfl
@[simp] theorem clearForReset_resetCount (s : State) : (s.clearForReset).resetCount = s.resetCount + 1 := rfl
@[simp] theorem clearForReset_freeSwitches (s : State) : (s.clearForReset).freeSwitches = s.freeSwitches := rfl
@[simp] theorem clearForReset_freeButtons (s : State) : (s.clearForReset).freeButtons = s.freeButtons := rfl

/-! ### Looking at a register, a byte or a range after an update that does not touch it -/

@[simp] theorem setReg_byteAt (s : State) (r : RegIdx) (v : Word) (x : Nat) : (s.setReg r v).byteAt x = s.byteAt x := rfl
@[simp] theorem setReg_inRange (s : State) (r : RegIdx) (v : Word) (x : Word) (k : Nat) : (s.setReg r v).inRange x k = s.inRange x k := rfl
@[simp] theorem setReg_bytesAt (s : State) (r : RegIdx) (v : Word) (x : Word) (k : Nat) : (s.setReg r v).bytesAt x k = s.bytesAt x k := rfl
@[simp] theorem setReg_memRead (s : State) (r : RegIdx) (v : Word) (x : Word) (k : Nat) : (s.setReg r v).memRead x k = s.memRead x k := rfl
@[simp] theorem setPc_getReg (s : State) (p : Word) (i : RegIdx) : (s.setPc p).getReg i = s.getReg i := rfl
@[simp] theorem setPc_byteAt (s : State) (p : Word) (x : Nat) : (s.setPc p).byteAt x = s.byteAt x := rfl
@[simp] theorem setPc_inRange (s : State) (p : Word) (x : Word) (k : Nat) : (s.setPc p).inRange x k = s.inRange x k := rfl
@[simp] theorem setPc_bytesAt (s : State) (p : Word) (x : Word) (k : Nat) : (s.setPc p).bytesAt x k = s.bytesAt x k := rfl
@[simp] theorem setPc_memRead (s : State) (p : Word) (x : Word) (k : Nat) : (s.setPc p).memRead x k = s.memRead x k := rfl
@[simp] theorem advance_getReg (s : State) (i : RegIdx) : (s.advance).getReg i = s.getReg i := rfl
@[simp] theorem advance_byteAt (s : State) (x : Nat) : (s.advance).byteAt x = s.byteAt x := rfl
@[simp] theorem advance_inRange (s : State) (x : Word) (k : Nat) : (s.advance).inRange x k = s.inRange x k := rfl
@[simp] theorem advance_bytesAt (s : State) (x : Word) (k : Nat) : (s.advance).bytesAt x k = s.bytesAt x k := rfl
@[simp] theorem advance_memRead (s : State) (x : Word) (k : Nat) : (s.advance).memRead x k = s.memRead x k := rfl
@[simp] theorem memWrite_getReg (s : State) (a : Word) (n : Nat) (v : Word) (i : RegIdx) : (s.memWrite a n v).getReg i = s.getReg i := rfl
@[simp] theorem memWrite_inRange (s : State) (a : Word) (n : Nat) (v : Word) (x : Word) (k : Nat) : (s.memWrite a n v).inRange x k = s.inRange x k := rfl
@[simp] theorem emitTrace_getReg (s : State) (e : TraceEvent) (i : RegIdx) : (s.emitTrace e).getReg i = s.getReg i := rfl
@[simp] theorem emitTrace_byteAt (s : State) (e : TraceEvent) (x : Nat) : (s.emitTrace e).byteAt x = s.byteAt x := rfl
@[simp] theorem emitTrace_inRange (s : State) (e : TraceEvent) (x : Word) (k : Nat) : (s.emitTrace e).inRange x k = s.inRange x k := rfl
@[simp] theorem emitTrace_bytesAt (s : State) (e : TraceEvent) (x : Word) (k : Nat) : (s.emitTrace e).bytesAt x k = s.bytesAt x k := rfl
@[simp] theorem emitTrace_memRead (s : State) (e : TraceEvent) (x : Word) (k : Nat) : (s.emitTrace e).memRead x k = s.memRead x k := rfl
@[simp] theorem emitDiag_getReg (s : State) (e : DiagEvent) (i : RegIdx) : (s.emitDiag e).getReg i = s.getReg i := rfl
@[simp] theorem emitDiag_byteAt (s : State) (e : DiagEvent) (x : Nat) : (s.emitDiag e).byteAt x = s.byteAt x := rfl
@[simp] theorem emitDiag_inRange (s : State) (e : DiagEvent) (x : Word) (k : Nat) : (s.emitDiag e).inRange x k = s.inRange x k := rfl
@[simp] theorem emitDiag_bytesAt (s : State) (e : DiagEvent) (x : Word) (k : Nat) : (s.emitDiag e).bytesAt x k = s.bytesAt x k := rfl
@[simp] theorem emitDiag_memRead (s : State) (e : DiagEvent) (x : Word) (k : Nat) : (s.emitDiag e).memRead x k = s.memRead x k := rfl
@[simp] theorem setEcallPending_getReg (s : State) (b : Bool) (i : RegIdx) : (s.setEcallPending b).getReg i = s.getReg i := rfl
@[simp] theorem setEcallPending_byteAt (s : State) (b : Bool) (x : Nat) : (s.setEcallPending b).byteAt x = s.byteAt x := rfl
@[simp] theorem setEcallPending_inRange (s : State) (b : Bool) (x : Word) (k : Nat) : (s.setEcallPending b).inRange x k = s.inRange x k := rfl
@[simp] theorem setEcallPending_bytesAt (s : State) (b : Bool) (x : Word) (k : Nat) : (s.setEcallPending b).bytesAt x k = s.bytesAt x k := rfl
@[simp] theorem setEcallPending_memRead (s : State) (b : Bool) (x : Word) (k : Nat) : (s.setEcallPending b).memRead x k = s.memRead x k := rfl
@[simp] theorem setPaused_getReg (s : State) (b : Bool) (i : RegIdx) : (s.setPaused b).getReg i = s.getReg i := rfl
@[simp] theorem setPaused_byteAt (s : State) (b : Bool) (x : Nat) : (s.setPaused b).byteAt x = s.byteAt x := rfl
@[simp] theorem setPaused_inRange (s : State) (b : Bool) (x : Word) (k : Nat) : (s.setPaused b).inRange x k = s.inRange x k := rfl
@[simp] theorem setPaused_bytesAt (s : State) (b : Bool) (x : Word) (k : Nat) : (s.setPaused b).bytesAt x k = s.bytesAt x k := rfl
@[simp] theorem setPaused_memRead (s : State) (b : Bool) (x : Word) (k : Nat) : (s.setPaused b).memRead x k = s.memRead x k := rfl
@[simp] theorem setHalted_getReg (s : State) (h : HaltReason) (i : RegIdx) : (s.setHalted h).getReg i = s.getReg i := rfl
@[simp] theorem setHalted_byteAt (s : State) (h : HaltReason) (x : Nat) : (s.setHalted h).byteAt x = s.byteAt x := rfl
@[simp] theorem setHalted_inRange (s : State) (h : HaltReason) (x : Word) (k : Nat) : (s.setHalted h).inRange x k = s.inRange x k := rfl
@[simp] theorem setHalted_bytesAt (s : State) (h : HaltReason) (x : Word) (k : Nat) : (s.setHalted h).bytesAt x k = s.bytesAt x k := rfl
@[simp] theorem setHalted_memRead (s : State) (h : HaltReason) (x : Word) (k : Nat) : (s.setHalted h).memRead x k = s.memRead x k := rfl
@[simp] theorem applySignals_getReg (s : State) (b : Word) (i : RegIdx) : (s.applySignals b).getReg i = s.getReg i := rfl
@[simp] theorem applySignals_byteAt (s : State) (b : Word) (x : Nat) : (s.applySignals b).byteAt x = s.byteAt x := rfl
@[simp] theorem applySignals_inRange (s : State) (b : Word) (x : Word) (k : Nat) : (s.applySignals b).inRange x k = s.inRange x k := rfl
@[simp] theorem applySignals_bytesAt (s : State) (b : Word) (x : Word) (k : Nat) : (s.applySignals b).bytesAt x k = s.bytesAt x k := rfl
@[simp] theorem applySignals_memRead (s : State) (b : Word) (x : Word) (k : Nat) : (s.applySignals b).memRead x k = s.memRead x k := rfl
@[simp] theorem raise_getReg (s : State) (f : Fatal) (i : RegIdx) : (s.raise f).getReg i = s.getReg i := rfl
@[simp] theorem raise_byteAt (s : State) (f : Fatal) (x : Nat) : (s.raise f).byteAt x = s.byteAt x := rfl
@[simp] theorem raise_inRange (s : State) (f : Fatal) (x : Word) (k : Nat) : (s.raise f).inRange x k = s.inRange x k := rfl
@[simp] theorem raise_bytesAt (s : State) (f : Fatal) (x : Word) (k : Nat) : (s.raise f).bytesAt x k = s.bytesAt x k := rfl
@[simp] theorem raise_memRead (s : State) (f : Fatal) (x : Word) (k : Nat) : (s.raise f).memRead x k = s.memRead x k := rfl
@[simp] theorem ackButtons_getReg (s : State) (i : RegIdx) : (s.ackButtons).getReg i = s.getReg i := rfl
@[simp] theorem ackButtons_byteAt (s : State) (x : Nat) : (s.ackButtons).byteAt x = s.byteAt x := rfl
@[simp] theorem ackButtons_inRange (s : State) (x : Word) (k : Nat) : (s.ackButtons).inRange x k = s.inRange x k := rfl
@[simp] theorem ackButtons_bytesAt (s : State) (x : Word) (k : Nat) : (s.ackButtons).bytesAt x k = s.bytesAt x k := rfl
@[simp] theorem ackButtons_memRead (s : State) (x : Word) (k : Nat) : (s.ackButtons).memRead x k = s.memRead x k := rfl
@[simp] theorem takeSwitch_getReg (s : State) (i : RegIdx) : (s.takeSwitch).getReg i = s.getReg i := rfl
@[simp] theorem takeSwitch_byteAt (s : State) (x : Nat) : (s.takeSwitch).byteAt x = s.byteAt x := rfl
@[simp] theorem takeSwitch_inRange (s : State) (x : Word) (k : Nat) : (s.takeSwitch).inRange x k = s.inRange x k := rfl
@[simp] theorem takeSwitch_bytesAt (s : State) (x : Word) (k : Nat) : (s.takeSwitch).bytesAt x k = s.bytesAt x k := rfl
@[simp] theorem takeSwitch_memRead (s : State) (x : Word) (k : Nat) : (s.takeSwitch).memRead x k = s.memRead x k := rfl
@[simp] theorem refreshLed_getReg (s : State) (i : RegIdx) : (s.refreshLed).getReg i = s.getReg i := rfl
@[simp] theorem refreshLed_byteAt (s : State) (x : Nat) : (s.refreshLed).byteAt x = s.byteAt x := rfl
@[simp] theorem refreshLed_inRange (s : State) (x : Word) (k : Nat) : (s.refreshLed).inRange x k = s.inRange x k := rfl
@[simp] theorem refreshLed_bytesAt (s : State) (x : Word) (k : Nat) : (s.refreshLed).bytesAt x k = s.bytesAt x k := rfl
@[simp] theorem refreshLed_memRead (s : State) (x : Word) (k : Nat) : (s.refreshLed).memRead x k = s.memRead x k := rfl
@[simp] theorem poll_getReg (s : State) (i : RegIdx) : (s.poll).getReg i = s.getReg i := rfl
@[simp] theorem poll_byteAt (s : State) (x : Nat) : (s.poll).byteAt x = s.byteAt x := rfl
@[simp] theorem poll_inRange (s : State) (x : Word) (k : Nat) : (s.poll).inRange x k = s.inRange x k := rfl
@[simp] theorem poll_bytesAt (s : State) (x : Word) (k : Nat) : (s.poll).bytesAt x k = s.bytesAt x k := rfl
@[simp] theorem poll_memRead (s : State) (x : Word) (k : Nat) : (s.poll).memRead x k = s.memRead x k := rfl
@[simp] theorem clearStepReq_getReg (s : State) (i : RegIdx) : (s.clearStepReq).getReg i = s.getReg i := rfl
@[simp] theorem clearStepReq_byteAt (s : State) (x : Nat) : (s.clearStepReq).byteAt x = s.byteAt x := rfl
@[simp] theorem clearStepReq_inRange (s : State) (x : Word) (k : Nat) : (s.clearStepReq).inRange x k = s.inRange x k := rfl
@[simp] theorem clearStepReq_bytesAt (s : State) (x : Word) (k : Nat) : (s.clearStepReq).bytesAt x k = s.bytesAt x k := rfl
@[simp] theorem clearStepReq_memRead (s : State) (x : Word) (k : Nat) : (s.clearStepReq).memRead x k = s.memRead x k := rfl
@[simp] theorem clearForReset_inRange (s : State) (x : Word) (k : Nat) : (s.clearForReset).inRange x k = s.inRange x k := rfl

end Sys2Proof.Machine.State
end

