-- ==== Sys2Proof/Laws/Memory.lean ====
section
/-! SUPPORT. Memory: read after write, and that every memory operation keeps the canonical form (log 7). -/

namespace Sys2Proof.Machine

/-! ### One byte -/

theorem Memory.lookup_insert_same (m : Memory) (a : Nat) (v : Byte) : (m.insert a v).lookup a = some v := by
  induction m with
  | nil => simp [Memory.insert, Memory.lookup]
  | cons c m ih =>
    obtain ⟨k, b⟩ := c
    simp only [Memory.insert]
    split
    · simp [Memory.lookup]
    · split
      · simp [Memory.lookup]
      · rename_i h₁ h₂
        have : k ≠ a := fun h => h₂ h.symm
        simp [Memory.lookup, this, ih]

theorem Memory.lookup_insert_ne (m : Memory) {a x : Nat} (v : Byte) (h : x ≠ a) :
    (m.insert a v).lookup x = m.lookup x := by
  induction m with
  | nil => simp [Memory.insert, Memory.lookup, h.symm]
  | cons c m ih =>
    obtain ⟨k, b⟩ := c
    simp only [Memory.insert]
    split
    · simp [Memory.lookup, h.symm]
    · split
      · rename_i h₁ h₂
        subst h₂
        simp [Memory.lookup, h.symm]
      · simp [Memory.lookup, ih]

theorem Memory.mem_insert {m : Memory} {a : Nat} {v : Byte} {c : Host.Cell} (h : c ∈ m.insert a v) :
    c = (a, v) ∨ c ∈ m := by
  induction m with
  | nil => simpa [Memory.insert] using h
  | cons d m ih =>
    obtain ⟨k, b⟩ := d
    simp only [Memory.insert] at h
    split at h
    · simpa using h
    · split at h
      · rcases List.mem_cons.1 h with h | h
        · exact .inl h
        · exact .inr (List.mem_cons_of_mem _ h)
      · rcases List.mem_cons.1 h with h | h
        · exact .inr (h ▸ List.mem_cons_self)
        · exact (ih h).imp_right (List.mem_cons_of_mem _)

theorem Memory.insert_wf {m : Memory} (h : m.wf) (a : Nat) (v : Byte) : (m.insert a v).wf := by
  induction m with
  | nil => simp [Memory.insert, Memory.wf]
  | cons c m ih =>
    obtain ⟨k, b⟩ := c
    obtain ⟨hk, hm⟩ := List.pairwise_cons.1 h
    simp only [Memory.insert]
    split
    · rename_i hak
      refine List.pairwise_cons.2 ⟨fun d hd => ?_, h⟩
      rcases List.mem_cons.1 hd with rfl | hd
      · exact hak
      · exact Nat.lt_trans hak (hk d hd)
    · split
      · rename_i h₂
        exact List.pairwise_cons.2 ⟨fun d hd => h₂ ▸ hk d hd, hm⟩
      · refine List.pairwise_cons.2 ⟨fun d hd => ?_, ih hm⟩
        rcases Memory.mem_insert hd with rfl | hd
        · exact Nat.lt_of_le_of_ne (Nat.le_of_not_lt ‹_›) (fun h => ‹¬ a = k› h.symm)
        · exact hk d hd

/-! ### The bytes of one access -/

theorem Memory.writeBytes_wf {m : Memory} (h : m.wf) (a : Word) (bs : List Byte) : (m.writeBytes a bs).wf := by
  induction bs generalizing m a with
  | nil => exact h
  | cons b bs ih => exact ih (Memory.insert_wf h _ _) _

theorem byteAddr_zero (a : Word) : byteAddr a 0 = a.toNat := by simp [byteAddr]

theorem byteAddr_succ (a : Word) (k : Nat) : byteAddr a (k + 1) = byteAddr (a + 1#32) k := by
  simp only [byteAddr, BitVec.toNat_add, BitVec.toNat_ofNat]
  omega

/-- The addresses of one access of at most 2^32 bytes are all different (R41). -/
theorem byteAddr_inj (a : Word) {i j : Nat} (hi : i < 2 ^ 32) (hj : j < 2 ^ 32) (h : byteAddr a i = byteAddr a j) : i = j := by
  simp only [byteAddr, BitVec.toNat_add, BitVec.toNat_ofNat] at h
  omega

theorem Memory.lookup_writeBytes_outside (m : Memory) (a : Word) (bs : List Byte) {x : Nat}
    (h : ∀ k, k < bs.length → byteAddr a k ≠ x) : (m.writeBytes a bs).lookup x = m.lookup x := by
  induction bs generalizing m a with
  | nil => rfl
  | cons b bs ih =>
    have h₀ : a.toNat ≠ x := byteAddr_zero a ▸ h 0 (by simp)
    have hs : ∀ k, k < bs.length → byteAddr (a + 1#32) k ≠ x := fun k hk =>
      byteAddr_succ a k ▸ h (k + 1) (by simpa using hk)
    simp only [Memory.writeBytes]
    rw [ih _ _ hs, Memory.lookup_insert_ne _ _ h₀.symm]

theorem Memory.lookup_writeBytes_inside (m : Memory) (a : Word) (bs : List Byte) (hlen : bs.length ≤ 2 ^ 32) (k : Nat)
    (hk : k < bs.length) : (m.writeBytes a bs).lookup (byteAddr a k) = some bs[k] := by
  induction bs generalizing m a k with
  | nil => simp at hk
  | cons b bs ih =>
    have hl : bs.length < 2 ^ 32 := by simp only [List.length_cons] at hlen; omega
    simp only [Memory.writeBytes]
    cases k with
    | zero =>
      rw [Memory.lookup_writeBytes_outside _ _ _ (fun j hj he => ?_), byteAddr_zero]
      · exact Memory.lookup_insert_same _ _ _
      · rw [← byteAddr_succ] at he
        exact absurd (byteAddr_inj a (by omega) (by omega) he) (by omega)
    | succ k =>
      rw [byteAddr_succ]
      exact ih _ _ (by omega) _ (by simpa using hk)

theorem Memory.mem_writeBytes {m : Memory} {a : Word} {bs : List Byte} {c : Host.Cell} (h : c ∈ m.writeBytes a bs) :
    c ∈ m ∨ ∃ k, k < bs.length ∧ c.1 = byteAddr a k := by
  induction bs generalizing m a with
  | nil => exact .inl h
  | cons b bs ih =>
    rcases ih h with h | ⟨k, hk, he⟩
    · rcases Memory.mem_insert h with rfl | h
      · exact .inr ⟨0, by simp, (byteAddr_zero a).symm⟩
      · exact .inl h
    · exact .inr ⟨k + 1, by simpa using hk, by rw [byteAddr_succ]; exact he⟩

/-! ### Byte order -/

theorem leBytes_length (n : Nat) (v : Word) : (leBytes n v).length = n := by
  induction n generalizing v with
  | zero => rfl
  | succ n ih => simp [leBytes, ih]

theorem leBytes_getElem (n : Nat) (v : Word) (k : Nat) (h : k < (leBytes n v).length) :
    (leBytes n v)[k] = (v >>> (8 * k)).setWidth 8 := by
  induction n generalizing v k with
  | zero => simp [leBytes] at h
  | succ n ih =>
    cases k with
    | zero => simp [leBytes]
    | succ k =>
      simp only [leBytes, List.getElem_cons_succ, ih]
      rw [← BitVec.shiftRight_add]
      congr 2
      omega

/-- Four bytes assembled: the word they spell, the last byte the most significant (R42). -/
theorem leValue_four (b₀ b₁ b₂ b₃ : Byte) : leValue [b₀, b₁, b₂, b₃] = b₃ ++ b₂ ++ b₁ ++ b₀ := by
  apply BitVec.eq_of_getLsbD_eq
  intro i hi
  have l₁ : i - 8 < 32 := by omega
  have l₂ : i - 16 < 32 := by omega
  have l₃ : i - 24 < 32 := by omega
  have e₃ : i - 8 - 8 = i - 16 := by omega
  have e₄ : i - 16 - 8 = i - 24 := by omega
  simp only [leValue, BitVec.getLsbD_or, BitVec.getLsbD_setWidth, BitVec.getLsbD_shiftLeft, BitVec.getLsbD_append,
    BitVec.getLsbD_zero, hi, l₁, l₂, l₃, e₃, e₄, decide_true, Bool.true_and, Bool.and_false, Bool.or_false]
  by_cases h₁ : i < 8
  · simp [h₁]
  have g₀ : b₀.getLsbD i = false := BitVec.getLsbD_of_ge _ _ (by omega)
  by_cases h₂ : i < 16
  · simp [h₁, g₀, show i - 8 < 8 by omega]
  have g₁ : b₁.getLsbD (i - 8) = false := BitVec.getLsbD_of_ge _ _ (by omega)
  by_cases h₃ : i < 24
  · simp [h₁, g₀, g₁, show ¬ i - 8 < 8 by omega, show i - 16 < 8 by omega]
  have g₂ : b₂.getLsbD (i - 16) = false := BitVec.getLsbD_of_ge _ _ (by omega)
  simp [h₁, g₀, g₁, g₂, show ¬ i - 8 < 8 by omega, show ¬ i - 16 < 8 by omega]

/-! ### The state's reads and writes -/

theorem State.byteAt_memWrite_outside (s : State) (a : Word) (n : Nat) (v : Word) {x : Nat}
    (h : ∀ k, k < n → byteAddr a k ≠ x) : (s.memWrite a n v).byteAt x = s.byteAt x := by
  simp only [State.byteAt, State.memWrite_mem, State.memWrite_resetCount]
  rw [Memory.lookup_writeBytes_outside _ _ _ (by rwa [leBytes_length])]

theorem State.byteAt_memWrite_inside (s : State) (a : Word) (n : Nat) (v : Word) (hn : n ≤ 2 ^ 32) (k : Nat) (hk : k < n) :
    (s.memWrite a n v).byteAt (byteAddr a k) = (v >>> (8 * k)).setWidth 8 := by
  simp only [State.byteAt, State.memWrite_mem, State.memWrite_resetCount]
  rw [Memory.lookup_writeBytes_inside _ _ _ (by rwa [leBytes_length]) k (by rwa [leBytes_length])]
  simp [leBytes_getElem]

theorem State.inRange_iff (s : State) (a : Word) (n : Nat) :
    s.inRange a n = true ↔ ∀ k, k < n → byteAddr a k < s.params.memSize := by
  simp [State.inRange]

/-! ### What a read gives (R42) -/

theorem State.memRead_one (s : State) (a : Word) : s.memRead a 1 = (s.byteAt (byteAddr a 0)).setWidth 32 := by
  simp [State.memRead, State.bytesAt, leValue]

theorem State.memRead_two (s : State) (a : Word) :
    (s.memRead a 2).setWidth 16 = s.byteAt (byteAddr a 1) ++ s.byteAt (byteAddr a 0) := by
  have h : s.memRead a 2 = (s.byteAt (byteAddr a 0)).setWidth 32 ||| (s.byteAt (byteAddr a 1)).setWidth 32 <<< 8 := by
    simp [State.memRead, State.bytesAt, leValue, List.range_succ]
  rw [h]
  refine BitVec.eq_of_getLsbD_eq fun i hi => ?_
  simp only [BitVec.getLsbD_append, BitVec.getLsbD_setWidth, BitVec.getLsbD_or, BitVec.getLsbD_shiftLeft]
  interval_cases i <;> simp

theorem State.memRead_four (s : State) (a : Word) :
    s.memRead a 4 = s.byteAt (byteAddr a 3) ++ s.byteAt (byteAddr a 2) ++ s.byteAt (byteAddr a 1) ++ s.byteAt (byteAddr a 0) := by
  rw [← leValue_four]
  rfl

/-- What was stored is what a read of the same bytes gives, at every width (R42, R43). -/
theorem State.bytesAt_memWrite (s : State) (a : Word) (n : Nat) (v : Word) (hn : n ≤ 2 ^ 32) :
    (s.memWrite a n v).bytesAt a n = leBytes n v := by
  refine List.ext_getElem (by simp [State.bytesAt, leBytes_length]) fun k hk _ => ?_
  have hk' : k < n := by simpa [State.bytesAt] using hk
  simp only [State.bytesAt, List.getElem_map, List.getElem_range, leBytes_getElem]
  exact s.byteAt_memWrite_inside a n v hn k hk'

/-! ### Images -/

theorem cellsFrom_lower {a : Nat} {bs : List Byte} {c : Host.Cell} (h : c ∈ cellsFrom a bs) :
    a ≤ c.1 ∧ c.1 < a + bs.length := by
  induction bs generalizing a with
  | nil => simp [cellsFrom] at h
  | cons b bs ih =>
    rcases List.mem_cons.1 h with rfl | h
    · simp
    · have := ih h
      simp only [List.length_cons]
      omega

theorem cellsFrom_wf (a : Nat) (bs : List Byte) : Memory.wf (cellsFrom a bs) := by
  induction bs generalizing a with
  | nil => simp [cellsFrom, Memory.wf]
  | cons b bs ih => exact List.pairwise_cons.2 ⟨fun c hc => (cellsFrom_lower hc).1, ih _⟩

theorem lookup_cellsFrom_inside (a : Nat) (bs : List Byte) (k : Nat) (hk : k < bs.length) :
    Memory.lookup (cellsFrom a bs) (a + k) = some bs[k] := by
  induction bs generalizing a k with
  | nil => simp at hk
  | cons b bs ih =>
    cases k with
    | zero => simp [cellsFrom, Memory.lookup]
    | succ k =>
      have : a ≠ a + (k + 1) := by omega
      simp only [cellsFrom, Memory.lookup, this, if_false, List.getElem_cons_succ]
      rw [← ih (a + 1) k (by simpa using hk)]
      congr 1
      omega

theorem lookup_cellsFrom_above (a : Nat) (bs : List Byte) {x : Nat} (h : a + bs.length ≤ x) :
    Memory.lookup (cellsFrom a bs) x = none := by
  induction bs generalizing a with
  | nil => rfl
  | cons b bs ih =>
    simp only [List.length_cons] at h
    have : a ≠ x := by omega
    simp only [cellsFrom, Memory.lookup, this, if_false]
    exact ih _ (by omega)

end Sys2Proof.Machine
end

