-- ==== Sys2Proof/Laws/Ops.lean ====
section
/-! SUPPORT. What each shared operation can do, said once: registers, loads, stores, the fatal halt, the string loop, the
syscall handler, and that every meaning answers a next state. -/

namespace Sys2Proof.Machine

/-! ### Registers (R20, R21) -/

@[simp] theorem State.getReg_zero (s : State) : s.getReg 0#5 = 0#32 := rfl

theorem State.getReg_setReg_same (s : State) {r : RegIdx} (v : Word) (h : r ≠ 0#5) : (s.setReg r v).getReg r = v := by
  simp [State.getReg, writeRegs, h]

theorem State.getReg_setReg_ne (s : State) {r q : RegIdx} (v : Word) (h : q ≠ r) :
    (s.setReg r v).getReg q = s.getReg q := by
  have hn : r.toNat ≠ q.toNat := fun e => h (BitVec.eq_of_toNat_eq e.symm)
  simp only [State.getReg, State.setReg_regs, writeRegs]
  split
  · rfl
  · split
    · rfl
    · exact Vector.getElem_set_ne _ _ hn

/-- A write to x0 is discarded (R21). -/
theorem State.setReg_zero (s : State) (v : Word) : s.setReg 0#5 v = s := rfl

/-- No write changes the x0 slot. -/
theorem writeRegs_slot0 (regs : Vector Word 32) (r : RegIdx) (v : Word) : (writeRegs regs r v)[0] = regs[0] := by
  unfold writeRegs
  split
  · rfl
  · rename_i h
    have hn : r.toNat ≠ 0 := fun e => h (BitVec.eq_of_toNat_eq (by simpa using e))
    exact Vector.getElem_set_ne _ _ hn

/-- Registers are looked at through the register file alone. -/
theorem State.getReg_congr {s t : State} (h : t.regs = s.regs) (r : RegIdx) : t.getReg r = s.getReg r := by
  simp only [State.getReg, h]

/-- Bytes are looked at through memory and the reset counter alone. -/
theorem State.byteAt_congr {s t : State} (hm : t.mem = s.mem) (hc : t.resetCount = s.resetCount) (a : Nat) :
    t.byteAt a = s.byteAt a := by
  simp only [State.byteAt, hm, hc]

/-! ### The shared shapes -/

/-- Everything a load can do (R120, R47). -/
theorem State.load_cases (s : State) (rd : RegIdx) (ea : Word) (n : Nat) (ext : Word → Word) :
    (s.inRange ea n = true ∧ s.load rd ea n ext = s.writeResult rd (ext (s.memRead ea n))) ∨
    (s.inRange ea n = false ∧ s.load rd ea n ext = s.raise (.dataOutOfRange ea s.pc)) := by
  unfold State.load
  cases h : s.inRange ea n <;> simp

/-- Everything a store can do (R120, R43, R47). -/
theorem State.store_cases (s : State) (ea : Word) (n : Nat) (v : Word) :
    (s.inRange ea n = true ∧ s.store ea n v = (s.memWrite ea n v).advance) ∨
    (s.inRange ea n = false ∧ s.store ea n v = s.raise (.dataOutOfRange ea s.pc)) := by
  unfold State.store
  cases h : s.inRange ea n <;> simp

/-- What a reserved word can do (R169). -/
theorem State.runReserved_cases (s : State) (w : Word) :
    (s.params.reserved = .softNop ∧ s.runReserved w = s.advance) ∨
    (s.params.reserved = .fault ∧ s.runReserved w = s.raise (.reservedEncoding w s.pc)) := by
  unfold State.runReserved
  cases h : s.params.reserved <;> simp

/-- What a reset can do (R229). -/
theorem State.doReset_cases (s : State) :
    (∃ e, loadImage s.params s.nextImage = .ok e ∧ s.doReset = s.afterLoad s.nextImage e) ∨
    (∃ k, loadImage s.params s.nextImage = .error k ∧ s.doReset = s.afterFailedLoad k) := by
  unfold State.doReset
  cases h : loadImage s.params s.nextImage <;> simp

/-- A loaded image is longer than the header and shorter than memory (R221). -/
theorem loadImage_ok_size {p : Params} {image : List Byte} {e : Word} (h : loadImage p image = .ok e) :
    Config.hdrMin < image.length ∧ image.length < p.memSize := by
  unfold loadImage at h
  split at h
  · cases h
  · rename_i hs
    exact not_not.1 hs

/-! ### The syscall handler -/

/-- Everything the choice of a call can do (R176). -/
theorem State.dispatchCall_cases (s : State) (cur n arg : Word) :
    (n = 0#32 ∧ s.dispatchCall cur n arg = s.callExit) ∨
    (n = 100#32 ∧ s.dispatchCall cur n arg = s.callPrintInt arg) ∨
    (n = 101#32 ∧ s.dispatchCall cur n arg = s.callPrintStr cur arg) ∨
    (n = 103#32 ∧ s.dispatchCall cur n arg = s.callDumpRegs) ∨
    (n = 200#32 ∧ s.dispatchCall cur n arg = s.callReadInput) ∨
    ((n ≠ 0#32 ∧ n ≠ 100#32 ∧ n ≠ 101#32 ∧ n ≠ 103#32 ∧ n ≠ 200#32) ∧ s.dispatchCall cur n arg = s.callUnknown n) := by
  unfold State.dispatchCall
  by_cases h₀ : n = 0#32
  · simp [h₀]
  by_cases h₁ : n = 100#32
  · simp [h₁]
  by_cases h₂ : n = 101#32
  · simp [h₂]
  by_cases h₃ : n = 103#32
  · simp [h₃]
  by_cases h₄ : n = 200#32
  · simp [h₄]
  · simp [h₀, h₁, h₂, h₃, h₄]

/-- Everything call 101 can do (R179). -/
theorem State.callPrintStr_cases (s : State) (cur arg : Word) :
    (∃ bs, s.readString s.params.strMax arg = .ok bs ∧ s.callPrintStr cur arg = s.emitDiag (.printStr bs)) ∨
    (∃ ea, s.readString s.params.strMax arg = .error ea ∧
      s.callPrintStr cur arg = (s.setPc cur).raise (.dataOutOfRange ea cur)) := by
  unfold State.callPrintStr
  cases h : s.readString s.params.strMax arg <;> simp

/-- The string loop depends only on memory, the reset counter and MEM_SIZE. -/
theorem State.readString_congr {s t : State} (hm : t.mem = s.mem) (hc : t.resetCount = s.resetCount)
    (hp : t.params = s.params) (n : Nat) (a : Word) : t.readString n a = s.readString n a := by
  induction n generalizing a with
  | zero => rfl
  | succ n ih =>
    have hr : t.inRange a 1 = s.inRange a 1 := by simp only [State.inRange, hp]
    simp only [State.readString, hr, State.byteAt_congr hm hc, ih]

/-- The string loop stops at the first zero byte, or after its bound (R179). -/
theorem State.readString_ok (s : State) (n m : Nat) (a : Word) (hm : n ≤ m)
    (hb : ∀ k, k < n → byteAddr a k < s.params.memSize ∧ s.byteAt (byteAddr a k) ≠ 0#8)
    (hz : n < m → byteAddr a n < s.params.memSize ∧ s.byteAt (byteAddr a n) = 0#8) :
    s.readString m a = .ok ((List.range n).map fun k => s.byteAt (byteAddr a k)) := by
  induction m generalizing n a with
  | zero =>
    obtain rfl : n = 0 := by omega
    rfl
  | succ m ih =>
    have hr : s.inRange a 1 = decide (byteAddr a 0 < s.params.memSize) := by simp [State.inRange]
    cases n with
    | zero =>
      obtain ⟨h₁, h₂⟩ := hz (by omega)
      rw [byteAddr_zero] at h₂
      simp [State.readString, hr, h₁, h₂]
    | succ n =>
      obtain ⟨h₁, h₂⟩ := hb 0 (by omega)
      rw [byteAddr_zero] at h₂
      have hi := ih n (a + 1#32) (by omega) (fun k hk => by rw [← byteAddr_succ]; exact hb (k + 1) (by omega))
        (fun h => by rw [← byteAddr_succ]; exact hz (by omega))
      simp only [State.readString, hr, h₁, decide_true, if_true, h₂, if_false, hi]
      simp only [List.range_succ_eq_map, List.map_cons, List.map_map, byteAddr_zero, ← byteAddr_succ]
      rfl

/-- The string loop stops at its first byte out of range (R179, R47). -/
theorem State.readString_error (s : State) (n m : Nat) (a : Word) (hm : n < m)
    (hb : ∀ k, k < n → byteAddr a k < s.params.memSize ∧ s.byteAt (byteAddr a k) ≠ 0#8)
    (ho : s.params.memSize ≤ byteAddr a n) : s.readString m a = .error (BitVec.ofNat 32 (byteAddr a n)) := by
  induction m generalizing n a with
  | zero => omega
  | succ m ih =>
    have hr : s.inRange a 1 = decide (byteAddr a 0 < s.params.memSize) := by simp [State.inRange]
    cases n with
    | zero =>
      have h : ¬ byteAddr a 0 < s.params.memSize := by omega
      simp only [State.readString, hr, h, decide_false]
      simp [byteAddr]
    | succ n =>
      obtain ⟨h₁, h₂⟩ := hb 0 (by omega)
      rw [byteAddr_zero] at h₂
      have hi := ih n (a + 1#32) (by omega) (fun k hk => by rw [← byteAddr_succ]; exact hb (k + 1) (by omega))
        (by rw [← byteAddr_succ]; exact ho)
      simp only [State.readString, hr, h₁, decide_true, if_true, h₂, if_false, hi, byteAddr_succ]

/-! ### The trace of a step -/

/-- A completed step emits its event, a faulted one nothing more (R96). -/
theorem State.retire_cases (s : State) (cur w : Word) (d : Decoded) :
    (s.faulted = true ∧ s.retire cur w d = s) ∨
    (s.faulted = false ∧ s.retire cur w d = s.emitTrace (.executed cur w d (traceLineOf d))) := by
  unfold State.retire
  cases h : s.faulted <;> simp

@[simp] theorem State.faulted_raise (s : State) (f : Fatal) : (s.raise f).faulted = true := rfl

/-- The checks before a fetch find nothing exactly when the word can be fetched (R90). -/
theorem State.fetchFatal_none_iff (s : State) :
    s.fetchFatal = none ↔
      s.pc.toNat < s.params.memSize ∧ ¬ (s.params.misalignedPc = .fault ∧ s.pc.extractLsb' 0 2 ≠ 0#2) ∧
      s.inRange s.pc 4 = true := by
  unfold State.fetchFatal
  split
  · simp; omega
  · split
    · simp; tauto
    · split <;> simp_all

/-! ### What a claim says of each shared shape -/

/-- A register result is a register write and nothing else. -/
theorem writesRegister_of {i : Instr} {s : State} {rd : RegIdx} {v : Word} (h : exec i s = .next (s.writeResult rd v)) :
    WritesRegister i s rd v :=
  ⟨_, h, fun hr => State.getReg_setReg_same s v hr, rfl, fun _ hr => State.getReg_setReg_ne s v hr, rfl, fun _ => rfl,
    ⟨rfl, rfl, rfl, rfl, rfl⟩, ⟨rfl, rfl, rfl, rfl, rfl, rfl, rfl, rfl⟩, rfl, rfl⟩

/-- A link and jump is a register write, a new pc, and nothing else. -/
theorem linksAndJumps_of {i : Instr} {s : State} {rd : RegIdx} {target : Word}
    (h : exec i s = .next (s.jumpLink rd target)) : LinksAndJumps i s rd (s.pc + 4#32) target :=
  ⟨_, h, fun hr => State.getReg_setReg_same s _ hr, rfl, fun _ hr => State.getReg_setReg_ne s _ hr, rfl, fun _ => rfl,
    ⟨rfl, rfl, rfl, rfl, rfl⟩, ⟨rfl, rfl, rfl, rfl, rfl, rfl, rfl, rfl⟩, rfl, rfl⟩

/-- A new pc and nothing else. -/
theorem onlyMovesPc_of {i : Instr} {s : State} {target : Word} (h : exec i s = .next (s.setPc target)) :
    OnlyMovesPc i s target :=
  ⟨_, h, rfl, fun _ => rfl, fun _ => rfl, ⟨rfl, rfl, rfl, rfl, rfl⟩, ⟨rfl, rfl, rfl, rfl, rfl, rfl, rfl, rfl⟩, rfl, rfl⟩

/-- The fatal halt is what R192 says of it. -/
theorem fatalHaltOf_raise (s : State) (f : Fatal) : FatalHaltOf s (s.raise f) f :=
  ⟨rfl, rfl, rfl, rfl, rfl, fun _ => rfl, fun _ => rfl, rfl, rfl, rfl, rfl, rfl, rfl, rfl, rfl, rfl, rfl, rfl⟩

theorem State.inRange_iff_accessInside (s : State) (a : Word) (n : Nat) : s.inRange a n = true ↔ AccessInside s a n :=
  s.inRange_iff a n

/-- A load is what R120 and R47 say of it. -/
theorem loadsOrHalts_of {i : Instr} {s : State} {rd : RegIdx} {ea : Word} {n : Nat} {ext : Word → Word}
    (h : exec i s = .next (s.load rd ea n ext)) : LoadsOrHalts i s rd ea n (ext (s.memRead ea n)) := by
  rcases s.load_cases rd ea n ext with ⟨hr, hl⟩ | ⟨hr, hl⟩ <;> rw [hl] at h
  · exact ⟨fun _ => writesRegister_of h, fun hn => absurd ((s.inRange_iff_accessInside ea n).1 hr) hn⟩
  · refine ⟨fun hi => ?_, fun _ => ⟨_, h, fatalHaltOf_raise _ _⟩⟩
    rw [(s.inRange_iff_accessInside ea n).2 hi] at hr
    cases hr

/-- Byte `k` of a value, as a number. -/
theorem toNat_byte_of (v : Word) (k : Nat) : ((v >>> (8 * k)).setWidth 8).toNat = v.toNat / 256 ^ k % 256 := by
  simp only [BitVec.toNat_setWidth, BitVec.toNat_ushiftRight, Nat.shiftRight_eq_div_pow, Nat.pow_mul]

/-- A store is what R43, R120 and R47 say of it. -/
theorem storesOrHalts_of {i : Instr} {s : State} {ea : Word} {n : Nat} {v : Word} (hn : n ≤ 2 ^ 32)
    (h : exec i s = .next (s.store ea n v)) : StoresOrHalts i s ea n v := by
  rcases s.store_cases ea n v with ⟨hr, hl⟩ | ⟨hr, hl⟩ <;> rw [hl] at h
  · refine ⟨fun _ => ⟨_, h, fun k hk => ?_, fun a ha => ?_, rfl, fun _ => rfl, ⟨rfl, rfl, rfl, rfl, rfl⟩,
      ⟨rfl, rfl, rfl, rfl, rfl, rfl, rfl, rfl⟩, rfl, rfl⟩, fun hx => absurd ((s.inRange_iff_accessInside ea n).1 hr) hx⟩
    · rw [State.advance_byteAt, State.byteAt_memWrite_inside s ea n v hn k hk, toNat_byte_of]
    · rw [State.advance_byteAt, State.byteAt_memWrite_outside s ea n v ha]
  · refine ⟨fun hi => ?_, fun _ => ⟨_, h, fatalHaltOf_raise _ _⟩⟩
    rw [(s.inRange_iff_accessInside ea n).2 hi] at hr
    cases hr

end Sys2Proof.Machine
end

