-- ==== Sys2Proof/Laws/Operands.lean ====
section
/-! SUPPORT. The operand forms as integers (R11, R12, R105, R106, R110, R120). -/

namespace Sys2Proof.Machine

/-- A 32-bit sum with a sign-extended term, as an integer modulo 2^32. -/
theorem toNat_add_signExtend (a : Word) {n : Nat} (b : BitVec n) (h : n ≤ 32) :
    ((a + b.signExtend 32).toNat : Int) = (a.toNat + b.toInt) % 2 ^ 32 := by
  have hb : ((b.signExtend 32).toNat : Int) = b.toInt % 2 ^ 32 := by
    have h₁ := BitVec.toInt_eq_toNat_bmod (b.signExtend 32)
    have h₂ := BitVec.toInt_signExtend_of_le (x := b) h
    rw [← h₂, h₁]
    have := (b.signExtend 32).isLt
    rw [Int.bmod_def]
    split <;> omega
  rw [BitVec.toNat_add, Int.natCast_mod, Int.natCast_add, hb]
  push_cast
  omega

theorem effectiveAddress_int (a : Word) (imm : BitVec 12) :
    ((effectiveAddress a imm).toNat : Int) = (a.toNat + imm.toInt) % 2 ^ 32 :=
  toNat_add_signExtend a imm (by decide)

theorem sext12_toInt (imm : BitVec 12) : (sext12 imm).toInt = imm.toInt := BitVec.toInt_signExtend_of_le (by decide)
theorem sext13_toInt (imm : BitVec 13) : (sext13 imm).toInt = imm.toInt := BitVec.toInt_signExtend_of_le (by decide)
theorem sext21_toInt (imm : BitVec 21) : (sext21 imm).toInt = imm.toInt := BitVec.toInt_signExtend_of_le (by decide)

/-- `sext_12` as an unsigned value. -/
theorem sext12_toNat (imm : BitVec 12) : ((sext12 imm).toNat : Int) = imm.toInt % 2 ^ 32 := by
  simpa [sext12] using toNat_add_signExtend 0#32 imm (by decide)

/-- Bit `k` of `sext_12`: above bit 11, bit 11. -/
theorem sext12_getLsbD (imm : BitVec 12) (k : Nat) (h : k < 32) : (sext12 imm).getLsbD k = imm.getLsbD (min k 11) := by
  simp only [sext12, BitVec.getLsbD_signExtend, h, decide_true, Bool.true_and]
  split
  · rw [Nat.min_eq_left (by omega)]
  · rw [Nat.min_eq_right (by omega)]
    rfl

/-- Clearing the low bit (R106). -/
theorem toNat_and_not_one (a : Word) : (a &&& 0xFFFFFFFE#32).toNat = a.toNat / 2 * 2 := by
  have : a &&& 0xFFFFFFFE#32 = (a >>> 1) <<< 1 := by
    refine BitVec.eq_of_getLsbD_eq fun i hi => ?_
    simp only [BitVec.getLsbD_and, BitVec.getLsbD_shiftLeft, BitVec.getLsbD_ushiftRight]
    interval_cases i <;> simp
  rw [this, BitVec.toNat_shiftLeft, BitVec.toNat_ushiftRight, Nat.shiftRight_eq_div_pow, Nat.shiftLeft_eq]
  have := a.isLt
  omega

theorem jalrTarget_int (a : Word) (imm : BitVec 12) :
    ((jalrTarget a imm).toNat : Int) = (a.toNat + imm.toInt) % 2 ^ 32 / 2 * 2 := by
  rw [← effectiveAddress_int]
  simp only [jalrTarget, toNat_and_not_one, effectiveAddress]
  push_cast
  rfl

theorem immU_toNat (imm20 : BitVec 20) : (immU imm20).toNat = imm20.toNat * 4096 := by
  have h : immU imm20 = (imm20.setWidth 32) <<< 12 := by
    refine BitVec.eq_of_getLsbD_eq fun i hi => ?_
    simp only [immU, BitVec.getLsbD_append, BitVec.getLsbD_shiftLeft, BitVec.getLsbD_setWidth]
    interval_cases i <;> simp
  rw [h, BitVec.toNat_shiftLeft, BitVec.toNat_setWidth, Nat.shiftLeft_eq]
  have := imm20.isLt
  omega

theorem shiftAmount_toNat (v : Word) : (shiftAmount v).toNat = v.toNat % 32 := by simp [shiftAmount]

/-- The low two bits of an address as a remainder (R28). -/
theorem low_two_zero_iff (w : Word) : w.extractLsb' 0 2 = 0#2 ↔ w.toNat % 4 = 0 := by
  rw [← BitVec.toNat_inj]
  simp [BitVec.extractLsb'_toNat]

end Sys2Proof.Machine
end

