-- ==== Sys2Proof/Laws/Exec.lean ====
section
/-! SUPPORT. Everything an instruction can do, said once for all forty (`exec_effect`), everything the engine's step can do
(`engineStep_cases`) and everything an iteration can do (`step_cases`).  Claims about every instruction go through these. -/

namespace Sys2Proof.Machine

/-! ### One instruction -/

/-- The shapes of an instruction's effect. -/
inductive Effect (s : State) : Instr → State → Prop
  | result {i : Instr} {rd : RegIdx} {v : Word} (hd : destinationOf i = some rd) (hc : transfersControl i = false) :
      Effect s i (s.writeResult rd v)
  | link {i : Instr} {rd : RegIdx} {target : Word} (hd : destinationOf i = some rd) (hc : transfersControl i = true) :
      Effect s i (s.jumpLink rd target)
  | branch {i : Instr} {target : Word} (hd : destinationOf i = none) (hc : transfersControl i = true) :
      Effect s i (s.setPc target)
  | stored {i : Instr} {ea v : Word} {n : Nat} (ht : storeTargetOf s i = some (ea, n)) (hr : s.inRange ea n = true)
      (hc : transfersControl i = false) : Effect s i ((s.memWrite ea n v).advance)
  | outOfRange {i : Instr} {ea : Word} (hc : transfersControl i = false) : Effect s i (s.raise (.dataOutOfRange ea s.pc))
  | called : Effect s .ecall ((s.setEcallPending true).advance.syscall s.pc)
  | broke : Effect s .ebreak (s.setPaused true).advance
  | fenced : Effect s .fence s.advance

theorem effect_load {s : State} {i : Instr} {rd : RegIdx} (ea : Word) (n : Nat) (ext : Word → Word)
    (hd : destinationOf i = some rd) (hc : transfersControl i = false) : Effect s i (s.load rd ea n ext) := by
  rcases s.load_cases rd ea n ext with ⟨-, h⟩ | ⟨-, h⟩ <;> rw [h]
  · exact .result hd hc
  · exact .outOfRange hc

theorem effect_store {s : State} {i : Instr} {ea : Word} {n : Nat} (v : Word)
    (ht : storeTargetOf s i = some (ea, n)) (hc : transfersControl i = false) : Effect s i (s.store ea n v) := by
  rcases s.store_cases ea n v with ⟨hr, h⟩ | ⟨-, h⟩ <;> rw [h]
  · exact .stored ht hr hc
  · exact .outOfRange hc

/-- Every instruction answers a next state, by one of the shapes. -/
theorem exec_effect (i : Instr) (s : State) : ∃ t, exec i s = .next t ∧ Effect s i t := by
  cases i with
  | lb | lh | lw | lbu | lhu => exact ⟨_, rfl, effect_load _ _ _ rfl rfl⟩
  | sb | sh | sw => exact ⟨_, rfl, effect_store _ rfl rfl⟩
  | jal | jalr => exact ⟨_, rfl, .link rfl rfl⟩
  | beq | bne | blt | bge | bltu | bgeu => exact ⟨_, rfl, .branch rfl rfl⟩
  | ecall => exact ⟨_, rfl, .called⟩
  | ebreak => exact ⟨_, rfl, .broke⟩
  | fence => exact ⟨_, rfl, .fenced⟩
  | _ => exact ⟨_, rfl, .result rfl rfl⟩

theorem effect_of_exec {i : Instr} {s t : State} (h : exec i s = .next t) : Effect s i t := by
  obtain ⟨u, hu, he⟩ := exec_effect i s
  rw [h] at hu
  cases hu
  exact he

/-! ### The ECALL -/

/-- The shapes of what the handler can do (R176): exit, one Diag event, a fatal halt back at `cur`, or the read of an input. -/
theorem syscall_cases (s : State) (cur : Word) :
    (s.getReg regA0 = 0#32 ∧ s.syscall cur = s.callExit.setEcallPending false) ∨
    (∃ e, s.syscall cur = (s.emitDiag e).setEcallPending false) ∨
    (∃ ea, s.syscall cur = ((s.setPc cur).raise (.dataOutOfRange ea cur)).setEcallPending false) ∨
    (s.getReg regA0 = 200#32 ∧ s.syscall cur = s.callReadInput.setEcallPending false) := by
  unfold State.syscall
  rcases s.dispatchCall_cases cur (s.getReg regA0) (s.getReg regA1) with
    ⟨h, e⟩ | ⟨h, e⟩ | ⟨h, e⟩ | ⟨h, e⟩ | ⟨h, e⟩ | ⟨h, e⟩ <;> rw [e]
  · exact .inl ⟨h, rfl⟩
  · exact .inr (.inl ⟨_, rfl⟩)
  · rcases s.callPrintStr_cases cur (s.getReg regA1) with ⟨bs, -, e⟩ | ⟨ea, -, e⟩ <;> rw [e]
    · exact .inr (.inl ⟨_, rfl⟩)
    · exact .inr (.inr (.inl ⟨_, rfl⟩))
  · exact .inr (.inl ⟨_, rfl⟩)
  · exact .inr (.inr (.inr ⟨h, rfl⟩))
  · exact .inr (.inl ⟨_, rfl⟩)

/-! ### The fields an ECALL's handler leaves alone -/

@[simp] theorem State.syscall_params (s : State) (cur : Word) : (s.syscall cur).params = s.params := by
  rcases syscall_cases s cur with ⟨-, h⟩ | ⟨_, h⟩ | ⟨_, h⟩ | ⟨-, h⟩ <;> rw [h] <;> simp [State.callExit, State.callReadInput]

@[simp] theorem State.syscall_mem (s : State) (cur : Word) : (s.syscall cur).mem = s.mem := by
  rcases syscall_cases s cur with ⟨-, h⟩ | ⟨_, h⟩ | ⟨_, h⟩ | ⟨-, h⟩ <;> rw [h] <;> simp [State.callExit, State.callReadInput]

@[simp] theorem State.syscall_paused (s : State) (cur : Word) : (s.syscall cur).paused = s.paused := by
  rcases syscall_cases s cur with ⟨-, h⟩ | ⟨_, h⟩ | ⟨_, h⟩ | ⟨-, h⟩ <;> rw [h] <;> simp [State.callExit, State.callReadInput]

@[simp] theorem State.syscall_stepReq (s : State) (cur : Word) : (s.syscall cur).stepReq = s.stepReq := by
  rcases syscall_cases s cur with ⟨-, h⟩ | ⟨_, h⟩ | ⟨_, h⟩ | ⟨-, h⟩ <;> rw [h] <;> simp [State.callExit, State.callReadInput]

@[simp] theorem State.syscall_buttons (s : State) (cur : Word) : (s.syscall cur).buttons = s.buttons := by
  rcases syscall_cases s cur with ⟨-, h⟩ | ⟨_, h⟩ | ⟨_, h⟩ | ⟨-, h⟩ <;> rw [h] <;> simp [State.callExit, State.callReadInput]

@[simp] theorem State.syscall_freeButtons (s : State) (cur : Word) : (s.syscall cur).freeButtons = s.freeButtons := by
  rcases syscall_cases s cur with ⟨-, h⟩ | ⟨_, h⟩ | ⟨_, h⟩ | ⟨-, h⟩ <;> rw [h] <;> simp [State.callExit, State.callReadInput]

@[simp] theorem State.syscall_images (s : State) (cur : Word) : (s.syscall cur).images = s.images := by
  rcases syscall_cases s cur with ⟨-, h⟩ | ⟨_, h⟩ | ⟨_, h⟩ | ⟨-, h⟩ <;> rw [h] <;> simp [State.callExit, State.callReadInput]

@[simp] theorem State.syscall_resetCount (s : State) (cur : Word) : (s.syscall cur).resetCount = s.resetCount := by
  rcases syscall_cases s cur with ⟨-, h⟩ | ⟨_, h⟩ | ⟨_, h⟩ | ⟨-, h⟩ <;> rw [h] <;> simp [State.callExit, State.callReadInput]

@[simp] theorem State.syscall_led (s : State) (cur : Word) : (s.syscall cur).led = s.led := by
  rcases syscall_cases s cur with ⟨-, h⟩ | ⟨_, h⟩ | ⟨_, h⟩ | ⟨-, h⟩ <;> rw [h] <;> simp [State.callExit, State.callReadInput]

@[simp] theorem State.syscall_ecallPending (s : State) (cur : Word) : (s.syscall cur).ecallPending = false := rfl

/-- Only call 200 writes a register, and only x10 (R181, R184). -/
theorem State.syscall_getReg (s : State) (cur : Word) (r : RegIdx) :
    (s.syscall cur).getReg r = s.getReg r ∨ (s.getReg regA0 = 200#32 ∧ r = regA0) := by
  rcases syscall_cases s cur with ⟨-, h⟩ | ⟨_, h⟩ | ⟨_, h⟩ | ⟨h0, h⟩ <;> rw [h]
  · exact .inl (State.getReg_congr (by simp [State.callExit]) r)
  · exact .inl (State.getReg_congr (by simp) r)
  · exact .inl (State.getReg_congr (by simp) r)
  · by_cases hr : r = regA0
    · exact .inr ⟨h0, hr⟩
    · exact .inl ((State.getReg_congr (by simp [State.callReadInput]) r).trans
        (State.getReg_setReg_ne s s.switchSample hr))

/-- The handler writes no x0 slot. -/
theorem State.syscall_slot0 (s : State) (cur : Word) : (s.syscall cur).regs[0] = s.regs[0] := by
  rcases syscall_cases s cur with ⟨-, h⟩ | ⟨_, h⟩ | ⟨_, h⟩ | ⟨-, h⟩ <;> rw [h] <;>
    simp [State.callExit, State.callReadInput, writeRegs_slot0]

/-- How the handler leaves the halt: exited with call 0, a fatal halt with pc at `cur`, or as it was, with pc as it was. -/
theorem State.syscall_halt (s : State) (cur : Word) :
    (s.getReg regA0 = 0#32 ∧ (s.syscall cur).exited = true ∧ (s.syscall cur).haltReason = .exit ∧ (s.syscall cur).pc = s.pc) ∨
    ((s.syscall cur).exited = true ∧ (∃ f, (s.syscall cur).haltReason = .fatal f) ∧ (s.syscall cur).pc = cur) ∨
    ((s.syscall cur).exited = s.exited ∧ (s.syscall cur).haltReason = s.haltReason ∧ (s.syscall cur).pc = s.pc) := by
  rcases syscall_cases s cur with ⟨h0, h⟩ | ⟨_, h⟩ | ⟨_, h⟩ | ⟨-, h⟩ <;> rw [h]
  · exact .inl (by simp [State.callExit, h0])
  · exact .inr (.inr (by simp))
  · exact .inr (.inl (by simp))
  · exact .inr (.inr (by simp [State.callReadInput]))

/-! ### The fields the end of a step leaves alone -/

@[simp] theorem State.retire_params (s : State) (cur w : Word) (d : Decoded) : (s.retire cur w d).params = s.params := by
  rcases s.retire_cases cur w d with ⟨-, h⟩ | ⟨-, h⟩ <;> rw [h]; rfl

@[simp] theorem State.retire_regs (s : State) (cur w : Word) (d : Decoded) : (s.retire cur w d).regs = s.regs := by
  rcases s.retire_cases cur w d with ⟨-, h⟩ | ⟨-, h⟩ <;> rw [h]; rfl

@[simp] theorem State.retire_pc (s : State) (cur w : Word) (d : Decoded) : (s.retire cur w d).pc = s.pc := by
  rcases s.retire_cases cur w d with ⟨-, h⟩ | ⟨-, h⟩ <;> rw [h]; rfl

@[simp] theorem State.retire_mem (s : State) (cur w : Word) (d : Decoded) : (s.retire cur w d).mem = s.mem := by
  rcases s.retire_cases cur w d with ⟨-, h⟩ | ⟨-, h⟩ <;> rw [h]; rfl

@[simp] theorem State.retire_paused (s : State) (cur w : Word) (d : Decoded) : (s.retire cur w d).paused = s.paused := by
  rcases s.retire_cases cur w d with ⟨-, h⟩ | ⟨-, h⟩ <;> rw [h]; rfl

@[simp] theorem State.retire_stepReq (s : State) (cur w : Word) (d : Decoded) : (s.retire cur w d).stepReq = s.stepReq := by
  rcases s.retire_cases cur w d with ⟨-, h⟩ | ⟨-, h⟩ <;> rw [h]; rfl

@[simp] theorem State.retire_ecallPending (s : State) (cur w : Word) (d : Decoded) : (s.retire cur w d).ecallPending = s.ecallPending := by
  rcases s.retire_cases cur w d with ⟨-, h⟩ | ⟨-, h⟩ <;> rw [h]; rfl

@[simp] theorem State.retire_exited (s : State) (cur w : Word) (d : Decoded) : (s.retire cur w d).exited = s.exited := by
  rcases s.retire_cases cur w d with ⟨-, h⟩ | ⟨-, h⟩ <;> rw [h]; rfl

@[simp] theorem State.retire_haltReason (s : State) (cur w : Word) (d : Decoded) : (s.retire cur w d).haltReason = s.haltReason := by
  rcases s.retire_cases cur w d with ⟨-, h⟩ | ⟨-, h⟩ <;> rw [h]; rfl

@[simp] theorem State.retire_diag (s : State) (cur w : Word) (d : Decoded) : (s.retire cur w d).diag = s.diag := by
  rcases s.retire_cases cur w d with ⟨-, h⟩ | ⟨-, h⟩ <;> rw [h]; rfl

@[simp] theorem State.retire_led (s : State) (cur w : Word) (d : Decoded) : (s.retire cur w d).led = s.led := by
  rcases s.retire_cases cur w d with ⟨-, h⟩ | ⟨-, h⟩ <;> rw [h]; rfl

@[simp] theorem State.retire_buttons (s : State) (cur w : Word) (d : Decoded) : (s.retire cur w d).buttons = s.buttons := by
  rcases s.retire_cases cur w d with ⟨-, h⟩ | ⟨-, h⟩ <;> rw [h]; rfl

@[simp] theorem State.retire_switches (s : State) (cur w : Word) (d : Decoded) : (s.retire cur w d).switches = s.switches := by
  rcases s.retire_cases cur w d with ⟨-, h⟩ | ⟨-, h⟩ <;> rw [h]; rfl

@[simp] theorem State.retire_images (s : State) (cur w : Word) (d : Decoded) : (s.retire cur w d).images = s.images := by
  rcases s.retire_cases cur w d with ⟨-, h⟩ | ⟨-, h⟩ <;> rw [h]; rfl

@[simp] theorem State.retire_resetCount (s : State) (cur w : Word) (d : Decoded) : (s.retire cur w d).resetCount = s.resetCount := by
  rcases s.retire_cases cur w d with ⟨-, h⟩ | ⟨-, h⟩ <;> rw [h]; rfl

@[simp] theorem State.retire_freeSwitches (s : State) (cur w : Word) (d : Decoded) : (s.retire cur w d).freeSwitches = s.freeSwitches := by
  rcases s.retire_cases cur w d with ⟨-, h⟩ | ⟨-, h⟩ <;> rw [h]; rfl

@[simp] theorem State.retire_freeButtons (s : State) (cur w : Word) (d : Decoded) : (s.retire cur w d).freeButtons = s.freeButtons := by
  rcases s.retire_cases cur w d with ⟨-, h⟩ | ⟨-, h⟩ <;> rw [h]; rfl

/-! ### The engine's step -/

/-- Everything a step can do (R90): halt before the fetch, or run what it decoded and retire it. -/
theorem State.engineStep_cases (s : State) :
    (∃ f, s.fetchFatal = some f ∧ s.engineStep = .next (s.raise f)) ∨
    (s.fetchFatal = none ∧ ∃ t, execDecoded (decode s.fetchWord) s.fetchWord s = .next t ∧
      s.engineStep = .next (t.retire s.pc s.fetchWord (decode s.fetchWord))) := by
  unfold State.engineStep
  cases hf : s.fetchFatal with
  | some f => exact .inl ⟨f, rfl, rfl⟩
  | none =>
    have : ∃ t, execDecoded (decode s.fetchWord) s.fetchWord s = .next t := by
      cases decode s.fetchWord with
      | instr i => exact (exec_effect i s).imp fun _ h => h.1
      | unknown => exact ⟨_, rfl⟩
      | reserved => exact ⟨_, rfl⟩
    obtain ⟨t, ht⟩ := this
    exact .inr ⟨rfl, t, ht, by simp only [ht, onNext]⟩

theorem State.engineStep_next (s : State) : ∃ t, s.engineStep = .next t := by
  rcases s.engineStep_cases with ⟨f, -, h⟩ | ⟨-, t, -, h⟩ <;> exact ⟨_, h⟩

theorem State.faulted_of_running {s : State} (h : s.exited = false) : s.faulted = false := by
  simp [State.faulted, h]

/-- The step of a Running engine on a word that decodes: the instruction's meaning, then its trace event. -/
theorem State.engineStep_of_decode {s t : State} {d : Decoded} (hf : s.fetchFatal = none) (hd : decode s.fetchWord = d)
    (ht : execDecoded d s.fetchWord s = .next t) : s.engineStep = .next (t.retire s.pc s.fetchWord d) := by
  unfold State.engineStep
  simp only [hf, hd, ht, onNext]

/-! ### The iteration -/

/-- What the signals leave: only `paused` and `step_req` can differ from the polled state (R198, R199). -/
theorem State.poll_applySignals (s : State) {b : Word} {p q : Bool} (hp : (s.paused ^^ (toggleBit b && !s.exited)) = p)
    (hq : (s.stepReq || (stepBit b && !s.exited)) = q) :
    s.poll.applySignals b = { s.poll with paused := p, stepReq := q } := by
  subst hp hq
  rfl

/-- Everything an iteration can do (R196): a reset, one step, or nothing but the peripherals and the signals. -/
theorem step_cases (s : State) :
    (resetBit s.buttonSample = true ∧ step s = .next s.poll.doReset) ∨
    (resetBit s.buttonSample = false ∧ (s.poll.applySignals s.buttonSample).mayStep = true ∧
      ∃ t, (s.poll.applySignals s.buttonSample).engineStep = .next t ∧ step s = .next t.clearStepReq) ∨
    (resetBit s.buttonSample = false ∧ (s.poll.applySignals s.buttonSample).mayStep = false ∧
      step s = .next (s.poll.applySignals s.buttonSample)) := by
  unfold step State.iterate
  cases hr : resetBit s.buttonSample with
  | true => exact .inl ⟨rfl, rfl⟩
  | false =>
    cases hm : (s.poll.applySignals s.buttonSample).mayStep with
    | true =>
      obtain ⟨t, ht⟩ := (s.poll.applySignals s.buttonSample).engineStep_next
      exact .inr (.inl ⟨rfl, rfl, t, ht, by rw [ht]; rfl⟩)
    | false => exact .inr (.inr ⟨rfl, rfl, rfl⟩)

/-- An iteration that may step: its step, then `step_req` cleared. -/
theorem step_of_engineStep {s t : State} (hr : resetBit s.buttonSample = false)
    (hm : (s.poll.applySignals s.buttonSample).mayStep = true)
    (ht : (s.poll.applySignals s.buttonSample).engineStep = .next t) : step s = .next t.clearStepReq := by
  unfold step State.iterate
  rw [hr, hm, ht]
  rfl

end Sys2Proof.Machine
end

