-- ==== Sys2Proof/Laws/Loader.lean ====
section
/-! SUPPORT. The fields of an image, byte by byte (R222 to R227). -/

namespace Sys2Proof.Machine

/-- Two bytes assembled (R42). -/
theorem leValue_two (b₀ b₁ : Byte) : (leValue [b₀, b₁]).setWidth 16 = b₁ ++ b₀ := by
  refine BitVec.eq_of_getLsbD_eq fun i hi => ?_
  simp only [leValue, BitVec.getLsbD_append, BitVec.getLsbD_setWidth, BitVec.getLsbD_or, BitVec.getLsbD_shiftLeft,
    BitVec.getLsbD_zero]
  interval_cases i <;> simp

/-- A 32-bit field inside the image has a value exactly when its four bytes are the value's. -/
theorem imageU32_eq_iff (image : List Byte) (o : Nat) (h : o + 4 ≤ image.length) (v : Word) :
    imageU32 image o = v ↔ FieldIs image o 4 v.toNat := by
  have h0 : o + 0 < image.length := by omega
  have h1 : o + 1 < image.length := by omega
  have h2 : o + 2 < image.length := by omega
  have h3 : o + 3 < image.length := by omega
  have e : (image.drop o).take 4 = [image[o + 0], image[o + 1], image[o + 2], image[o + 3]] := by
    refine List.ext_getElem (by simp; omega) fun k hk hk' => ?_
    simp only [List.getElem_take, List.getElem_drop]
    simp at hk'
    interval_cases k <;> rfl
  rw [imageU32, e, leValue_four]
  constructor
  · rintro rfl k hk
    have b0 := image[o + 0].isLt
    have b1 := image[o + 1].isLt
    have b2 := image[o + 2].isLt
    have b3 := image[o + 3].isLt
    repeat rw [BitVec.toNat_append, ← Nat.shiftLeft_add_eq_or_of_lt (BitVec.isLt _)]
    simp only [Nat.shiftLeft_eq]
    interval_cases k <;> simp only [List.getElem?_eq_getElem, h0, h1, h2, h3, Option.map_some] <;> congr 1 <;> omega
  · intro hf
    have g0 := hf 0 (by omega)
    have g1 := hf 1 (by omega)
    have g2 := hf 2 (by omega)
    have g3 := hf 3 (by omega)
    simp only [List.getElem?_eq_getElem, h0, h1, h2, h3, Option.map_some, Option.some.injEq] at g0 g1 g2 g3
    apply BitVec.eq_of_toNat_eq
    have := v.isLt
    repeat rw [BitVec.toNat_append, ← Nat.shiftLeft_add_eq_or_of_lt (BitVec.isLt _)]
    simp only [Nat.shiftLeft_eq]
    omega
/-- A 16-bit field, likewise. -/
theorem imageU16_eq_iff (image : List Byte) (o : Nat) (h : o + 2 ≤ image.length) (v : BitVec 16) :
    imageU16 image o = v ↔ FieldIs image o 2 v.toNat := by
  have h0 : o + 0 < image.length := by omega
  have h1 : o + 1 < image.length := by omega
  have e : (image.drop o).take 2 = [image[o + 0], image[o + 1]] := by
    refine List.ext_getElem (by simp; omega) fun k hk hk' => ?_
    simp only [List.getElem_take, List.getElem_drop]
    simp at hk'
    interval_cases k <;> rfl
  rw [imageU16, e, leValue_two]
  constructor
  · rintro rfl k hk
    have b0 := image[o + 0].isLt
    have b1 := image[o + 1].isLt
    repeat rw [BitVec.toNat_append, ← Nat.shiftLeft_add_eq_or_of_lt (BitVec.isLt _)]
    simp only [Nat.shiftLeft_eq]
    interval_cases k <;> simp only [List.getElem?_eq_getElem, h0, h1, Option.map_some] <;> congr 1 <;> omega
  · intro hf
    have g0 := hf 0 (by omega)
    have g1 := hf 1 (by omega)
    simp only [List.getElem?_eq_getElem, h0, h1, Option.map_some, Option.some.injEq] at g0 g1
    apply BitVec.eq_of_toNat_eq
    have := v.isLt
    repeat rw [BitVec.toNat_append, ← Nat.shiftLeft_add_eq_or_of_lt (BitVec.isLt _)]
    simp only [Nat.shiftLeft_eq]
    omega

end Sys2Proof.Machine
end

