-- ==== Sys2Proof/Laws/PerInstr.lean ====
section
/-! SUPPORT. Per instruction: the encoder gives every instruction the major opcode of its class (R74). -/

namespace Sys2Proof.Laws

/-- The major opcode of an instruction's class (R74). -/
def classOpcode : Instr → BitVec 7
  | .lui _ _ => opLui
  | .auipc _ _ => opAuipc
  | .jal _ _ => opJal
  | .jalr _ _ _ => opJalr
  | .beq _ _ _ => opBranch
  | .bne _ _ _ => opBranch
  | .blt _ _ _ => opBranch
  | .bge _ _ _ => opBranch
  | .bltu _ _ _ => opBranch
  | .bgeu _ _ _ => opBranch
  | .lb _ _ _ => opLoad
  | .lh _ _ _ => opLoad
  | .lw _ _ _ => opLoad
  | .lbu _ _ _ => opLoad
  | .lhu _ _ _ => opLoad
  | .sb _ _ _ => opStore
  | .sh _ _ _ => opStore
  | .sw _ _ _ => opStore
  | .addi _ _ _ => opOpImm
  | .slti _ _ _ => opOpImm
  | .sltiu _ _ _ => opOpImm
  | .xori _ _ _ => opOpImm
  | .ori _ _ _ => opOpImm
  | .andi _ _ _ => opOpImm
  | .slli _ _ _ => opOpImm
  | .srli _ _ _ => opOpImm
  | .srai _ _ _ => opOpImm
  | .add _ _ _ => opOp
  | .sub _ _ _ => opOp
  | .sll _ _ _ => opOp
  | .slt _ _ _ => opOp
  | .sltu _ _ _ => opOp
  | .xor _ _ _ => opOp
  | .srl _ _ _ => opOp
  | .sra _ _ _ => opOp
  | .or _ _ _ => opOp
  | .and _ _ _ => opOp
  | .ecall => opSystem
  | .ebreak => opSystem
  | .fence => opMiscMem

/-- The family: the encoded word carries the opcode of the instruction's class. -/
def EncodedOpcode.Statement (i : Instr) : Prop := opcodeOf (encode i) = classOpcode i

theorem EncodedOpcode.lui (rd : RegIdx) (imm20 : BitVec 20) : EncodedOpcode.Statement (.lui rd imm20) :=
  opcodeOf_encU _ _ _
theorem EncodedOpcode.auipc (rd : RegIdx) (imm20 : BitVec 20) : EncodedOpcode.Statement (.auipc rd imm20) :=
  opcodeOf_encU _ _ _
theorem EncodedOpcode.jal (rd : RegIdx) (offset : BitVec 21) : EncodedOpcode.Statement (.jal rd offset) :=
  opcodeOf_encJ _ _ _
theorem EncodedOpcode.jalr (rd : RegIdx) (rs1 : RegIdx) (imm : BitVec 12) : EncodedOpcode.Statement (.jalr rd rs1 imm) :=
  opcodeOf_encI _ _ _ _ _
theorem EncodedOpcode.beq (rs1 : RegIdx) (rs2 : RegIdx) (offset : BitVec 13) : EncodedOpcode.Statement (.beq rs1 rs2 offset) :=
  opcodeOf_encB _ _ _ _ _
theorem EncodedOpcode.bne (rs1 : RegIdx) (rs2 : RegIdx) (offset : BitVec 13) : EncodedOpcode.Statement (.bne rs1 rs2 offset) :=
  opcodeOf_encB _ _ _ _ _
theorem EncodedOpcode.blt (rs1 : RegIdx) (rs2 : RegIdx) (offset : BitVec 13) : EncodedOpcode.Statement (.blt rs1 rs2 offset) :=
  opcodeOf_encB _ _ _ _ _
theorem EncodedOpcode.bge (rs1 : RegIdx) (rs2 : RegIdx) (offset : BitVec 13) : EncodedOpcode.Statement (.bge rs1 rs2 offset) :=
  opcodeOf_encB _ _ _ _ _
theorem EncodedOpcode.bltu (rs1 : RegIdx) (rs2 : RegIdx) (offset : BitVec 13) : EncodedOpcode.Statement (.bltu rs1 rs2 offset) :=
  opcodeOf_encB _ _ _ _ _
theorem EncodedOpcode.bgeu (rs1 : RegIdx) (rs2 : RegIdx) (offset : BitVec 13) : EncodedOpcode.Statement (.bgeu rs1 rs2 offset) :=
  opcodeOf_encB _ _ _ _ _
theorem EncodedOpcode.lb (rd : RegIdx) (rs1 : RegIdx) (imm : BitVec 12) : EncodedOpcode.Statement (.lb rd rs1 imm) :=
  opcodeOf_encI _ _ _ _ _
theorem EncodedOpcode.lh (rd : RegIdx) (rs1 : RegIdx) (imm : BitVec 12) : EncodedOpcode.Statement (.lh rd rs1 imm) :=
  opcodeOf_encI _ _ _ _ _
theorem EncodedOpcode.lw (rd : RegIdx) (rs1 : RegIdx) (imm : BitVec 12) : EncodedOpcode.Statement (.lw rd rs1 imm) :=
  opcodeOf_encI _ _ _ _ _
theorem EncodedOpcode.lbu (rd : RegIdx) (rs1 : RegIdx) (imm : BitVec 12) : EncodedOpcode.Statement (.lbu rd rs1 imm) :=
  opcodeOf_encI _ _ _ _ _
theorem EncodedOpcode.lhu (rd : RegIdx) (rs1 : RegIdx) (imm : BitVec 12) : EncodedOpcode.Statement (.lhu rd rs1 imm) :=
  opcodeOf_encI _ _ _ _ _
theorem EncodedOpcode.sb (rs1 : RegIdx) (rs2 : RegIdx) (imm : BitVec 12) : EncodedOpcode.Statement (.sb rs1 rs2 imm) :=
  opcodeOf_encS _ _ _ _ _
theorem EncodedOpcode.sh (rs1 : RegIdx) (rs2 : RegIdx) (imm : BitVec 12) : EncodedOpcode.Statement (.sh rs1 rs2 imm) :=
  opcodeOf_encS _ _ _ _ _
theorem EncodedOpcode.sw (rs1 : RegIdx) (rs2 : RegIdx) (imm : BitVec 12) : EncodedOpcode.Statement (.sw rs1 rs2 imm) :=
  opcodeOf_encS _ _ _ _ _
theorem EncodedOpcode.addi (rd : RegIdx) (rs1 : RegIdx) (imm : BitVec 12) : EncodedOpcode.Statement (.addi rd rs1 imm) :=
  opcodeOf_encI _ _ _ _ _
theorem EncodedOpcode.slti (rd : RegIdx) (rs1 : RegIdx) (imm : BitVec 12) : EncodedOpcode.Statement (.slti rd rs1 imm) :=
  opcodeOf_encI _ _ _ _ _
theorem EncodedOpcode.sltiu (rd : RegIdx) (rs1 : RegIdx) (imm : BitVec 12) : EncodedOpcode.Statement (.sltiu rd rs1 imm) :=
  opcodeOf_encI _ _ _ _ _
theorem EncodedOpcode.xori (rd : RegIdx) (rs1 : RegIdx) (imm : BitVec 12) : EncodedOpcode.Statement (.xori rd rs1 imm) :=
  opcodeOf_encI _ _ _ _ _
theorem EncodedOpcode.ori (rd : RegIdx) (rs1 : RegIdx) (imm : BitVec 12) : EncodedOpcode.Statement (.ori rd rs1 imm) :=
  opcodeOf_encI _ _ _ _ _
theorem EncodedOpcode.andi (rd : RegIdx) (rs1 : RegIdx) (imm : BitVec 12) : EncodedOpcode.Statement (.andi rd rs1 imm) :=
  opcodeOf_encI _ _ _ _ _
theorem EncodedOpcode.slli (rd : RegIdx) (rs1 : RegIdx) (shamt : BitVec 5) : EncodedOpcode.Statement (.slli rd rs1 shamt) :=
  opcodeOf_encR _ _ _ _ _ _
theorem EncodedOpcode.srli (rd : RegIdx) (rs1 : RegIdx) (shamt : BitVec 5) : EncodedOpcode.Statement (.srli rd rs1 shamt) :=
  opcodeOf_encR _ _ _ _ _ _
theorem EncodedOpcode.srai (rd : RegIdx) (rs1 : RegIdx) (shamt : BitVec 5) : EncodedOpcode.Statement (.srai rd rs1 shamt) :=
  opcodeOf_encR _ _ _ _ _ _
theorem EncodedOpcode.add (rd : RegIdx) (rs1 : RegIdx) (rs2 : RegIdx) : EncodedOpcode.Statement (.add rd rs1 rs2) :=
  opcodeOf_encR _ _ _ _ _ _
theorem EncodedOpcode.sub (rd : RegIdx) (rs1 : RegIdx) (rs2 : RegIdx) : EncodedOpcode.Statement (.sub rd rs1 rs2) :=
  opcodeOf_encR _ _ _ _ _ _
theorem EncodedOpcode.sll (rd : RegIdx) (rs1 : RegIdx) (rs2 : RegIdx) : EncodedOpcode.Statement (.sll rd rs1 rs2) :=
  opcodeOf_encR _ _ _ _ _ _
theorem EncodedOpcode.slt (rd : RegIdx) (rs1 : RegIdx) (rs2 : RegIdx) : EncodedOpcode.Statement (.slt rd rs1 rs2) :=
  opcodeOf_encR _ _ _ _ _ _
theorem EncodedOpcode.sltu (rd : RegIdx) (rs1 : RegIdx) (rs2 : RegIdx) : EncodedOpcode.Statement (.sltu rd rs1 rs2) :=
  opcodeOf_encR _ _ _ _ _ _
theorem EncodedOpcode.xor (rd : RegIdx) (rs1 : RegIdx) (rs2 : RegIdx) : EncodedOpcode.Statement (.xor rd rs1 rs2) :=
  opcodeOf_encR _ _ _ _ _ _
theorem EncodedOpcode.srl (rd : RegIdx) (rs1 : RegIdx) (rs2 : RegIdx) : EncodedOpcode.Statement (.srl rd rs1 rs2) :=
  opcodeOf_encR _ _ _ _ _ _
theorem EncodedOpcode.sra (rd : RegIdx) (rs1 : RegIdx) (rs2 : RegIdx) : EncodedOpcode.Statement (.sra rd rs1 rs2) :=
  opcodeOf_encR _ _ _ _ _ _
theorem EncodedOpcode.or (rd : RegIdx) (rs1 : RegIdx) (rs2 : RegIdx) : EncodedOpcode.Statement (.or rd rs1 rs2) :=
  opcodeOf_encR _ _ _ _ _ _
theorem EncodedOpcode.and (rd : RegIdx) (rs1 : RegIdx) (rs2 : RegIdx) : EncodedOpcode.Statement (.and rd rs1 rs2) :=
  opcodeOf_encR _ _ _ _ _ _
theorem EncodedOpcode.ecall : EncodedOpcode.Statement (.ecall) :=
  rfl
theorem EncodedOpcode.ebreak : EncodedOpcode.Statement (.ebreak) :=
  rfl
theorem EncodedOpcode.fence : EncodedOpcode.Statement (.fence) :=
  rfl

end Sys2Proof.Laws
end

