-- ==== Sys2Proof/Tests/Slice0.lean ====
section
/-! SUPPORT. Tests.  Words and expected results are those of spec/95_test_vectors.md (sections 1 and 2), or hand computed from
the rule a comment names; none is the model's own answer.  The last part shows, for every obligation that has hypotheses, states
and operands that meet them. -/

namespace Sys2Proof.Machine.Test

/-! ### Helpers -/

/-- The reference parameters with STR_MAX fixed at 16, for the tests of call 101. -/
def testParams : Params := { Params.reference with strMax := 16 }

/-- The state after reset, with an iteration to come in which no button is pressed. -/
def quiet : State := { State.reset with buttons := [0#32] }

/-- A state about to run the word `w` at 0x100, with registers and bytes set. -/
def start (w : Word) (regs : List (RegIdx × Word)) (bytes : List Host.Cell) : State :=
  let s := (quiet.setPc 0x100#32).memWrite 0x100#32 4 w
  let s := regs.foldl (fun s p => s.setReg p.1 p.2) s
  { s with params := testParams, mem := bytes.foldl (fun m c => m.insert c.1 c.2) s.mem }

/-- Look at the state a result answers. -/
def see {α : Type} (r : Result) (f : State → α) : Option α :=
  match r with
  | .next t => some (f t)
  | .fault _ => none
  | .refused _ => none

/-- Look at the state after one iteration. -/
def seeStep {α : Type} (s : State) (f : State → α) : Option α := see (step s) f

/-- A register and pc. -/
def regPc (r : RegIdx) (t : State) : Word × Word := (t.getReg r, t.pc)

/-- Why the engine halted, and pc. -/
def haltPc (t : State) : Bool × HaltReason × Word := (t.exited, t.haltReason, t.pc)

/-- The last Trace event. -/
def lastTrace (t : State) : Option TraceEvent := t.trace.getLast?

/-! ### Well-formedness: each check refuses an ill-formed term -/

theorem test_wf_jal_odd_refused : (Instr.jal 1#5 3#21).wellFormed = false := by decide
theorem test_wf_beq_odd_refused : (Instr.beq 1#5 2#5 1#13).wellFormed = false := by decide
theorem test_wf_bne_odd_refused : (Instr.bne 1#5 2#5 1#13).wellFormed = false := by decide
theorem test_wf_blt_odd_refused : (Instr.blt 1#5 2#5 5#13).wellFormed = false := by decide
theorem test_wf_bge_odd_refused : (Instr.bge 1#5 2#5 7#13).wellFormed = false := by decide
theorem test_wf_bltu_odd_refused : (Instr.bltu 1#5 2#5 1#13).wellFormed = false := by decide
theorem test_wf_bgeu_odd_refused : (Instr.bgeu 1#5 2#5 8191#13).wellFormed = false := by decide
theorem test_wf_jal_even_accepted : (Instr.jal 1#5 (BitVec.ofInt 21 (-1048576))).wellFormed = true := by decide
theorem test_wf_branch_even_accepted : (Instr.beq 1#5 2#5 4094#13).wellFormed = true := by decide

/-! ### Decoding: every constructor, from the words of 95_test_vectors.md, and the rejections -/

theorem test_decode_lui : decode 0x123452B7#32 = .instr (.lui 5#5 0x12345#20) := by decide
theorem test_decode_auipc : decode 0x80000297#32 = .instr (.auipc 5#5 0x80000#20) := by decide
theorem test_decode_jal : decode 0xFFDFF0EF#32 = .instr (.jal 1#5 (BitVec.ofInt 21 (-4))) := by decide
theorem test_decode_jalr : decode 0x004280E7#32 = .instr (.jalr 1#5 5#5 4#12) := by decide
theorem test_decode_beq : decode 0x7E000FE3#32 = .instr (.beq 0#5 0#5 4094#13) := by decide
theorem test_decode_bne : decode 0xFE209CE3#32 = .instr (.bne 1#5 2#5 (BitVec.ofInt 13 (-8))) := by decide
theorem test_decode_blt : decode 0x0020C663#32 = .instr (.blt 1#5 2#5 12#13) := by decide
theorem test_decode_bge : decode 0x0020D663#32 = .instr (.bge 1#5 2#5 12#13) := by decide
theorem test_decode_bltu : decode 0x0020E663#32 = .instr (.bltu 1#5 2#5 12#13) := by decide
theorem test_decode_bgeu : decode 0x0020F663#32 = .instr (.bgeu 1#5 2#5 12#13) := by decide
theorem test_decode_lb : decode 0x00130283#32 = .instr (.lb 5#5 6#5 1#12) := by decide
theorem test_decode_lh : decode 0x00231283#32 = .instr (.lh 5#5 6#5 2#12) := by decide
theorem test_decode_lw : decode 0xFFC32283#32 = .instr (.lw 5#5 6#5 (BitVec.ofInt 12 (-4))) := by decide
theorem test_decode_lbu : decode 0x00334283#32 = .instr (.lbu 5#5 6#5 3#12) := by decide
theorem test_decode_lhu : decode 0x00235283#32 = .instr (.lhu 5#5 6#5 2#12) := by decide
theorem test_decode_sb : decode 0x80730023#32 = .instr (.sb 6#5 7#5 (BitVec.ofInt 12 (-2048))) := by decide
theorem test_decode_sh : decode 0x7E731FA3#32 = .instr (.sh 6#5 7#5 2047#12) := by decide
theorem test_decode_sw : decode 0xFE732F23#32 = .instr (.sw 6#5 7#5 (BitVec.ofInt 12 (-2))) := by decide
theorem test_decode_addi : decode 0x80030293#32 = .instr (.addi 5#5 6#5 (BitVec.ofInt 12 (-2048))) := by decide
theorem test_decode_slti : decode 0x00532293#32 = .instr (.slti 5#5 6#5 5#12) := by decide
theorem test_decode_sltiu : decode 0xFFF33293#32 = .instr (.sltiu 5#5 6#5 (BitVec.ofInt 12 (-1))) := by decide
theorem test_decode_xori : decode 0xFFF34293#32 = .instr (.xori 5#5 6#5 (BitVec.ofInt 12 (-1))) := by decide
theorem test_decode_ori : decode 0x80036293#32 = .instr (.ori 5#5 6#5 (BitVec.ofInt 12 (-2048))) := by decide
theorem test_decode_andi : decode 0xFF037293#32 = .instr (.andi 5#5 6#5 (BitVec.ofInt 12 (-16))) := by decide
theorem test_decode_slli : decode 0x01F31293#32 = .instr (.slli 5#5 6#5 31#5) := by decide
theorem test_decode_srli : decode 0x01F35293#32 = .instr (.srli 5#5 6#5 31#5) := by decide
theorem test_decode_srai : decode 0x40435293#32 = .instr (.srai 5#5 6#5 4#5) := by decide
theorem test_decode_add : decode 0x007302B3#32 = .instr (.add 5#5 6#5 7#5) := by decide
theorem test_decode_sub : decode 0x407302B3#32 = .instr (.sub 5#5 6#5 7#5) := by decide
theorem test_decode_sll : decode 0x007312B3#32 = .instr (.sll 5#5 6#5 7#5) := by decide
theorem test_decode_slt : decode 0x007322B3#32 = .instr (.slt 5#5 6#5 7#5) := by decide
theorem test_decode_sltu : decode 0x007332B3#32 = .instr (.sltu 5#5 6#5 7#5) := by decide
theorem test_decode_xor : decode 0x006342B3#32 = .instr (.xor 5#5 6#5 6#5) := by decide
theorem test_decode_srl : decode 0x007352B3#32 = .instr (.srl 5#5 6#5 7#5) := by decide
theorem test_decode_sra : decode 0x407352B3#32 = .instr (.sra 5#5 6#5 7#5) := by decide
theorem test_decode_or : decode 0x007362B3#32 = .instr (.or 5#5 6#5 7#5) := by decide
theorem test_decode_and : decode 0x007372B3#32 = .instr (.and 5#5 6#5 7#5) := by decide
theorem test_decode_ecall : decode 0x00000073#32 = .instr .ecall := by decide
theorem test_decode_ebreak : decode 0x00100073#32 = .instr .ebreak := by decide
theorem test_decode_fence : decode 0x0FF0000F#32 = .instr .fence := by decide

/-- R77: a CSR word executes as EBREAK, and a SYSTEM word with a zero immediate as ECALL, whatever funct3 is. -/
theorem test_decode_system_ignores_funct3 :
    decode 0xC00022F3#32 = .instr .ebreak ∧ decode 0x00002073#32 = .instr .ecall := by decide

/-- R79: words whose opcode is none of the eleven. -/
theorem test_decode_unknown :
    decode 0x0000002F#32 = .unknown ∧ decode 0x00000000#32 = .unknown ∧ decode 0x0000006B#32 = .unknown := by decide

/-- R80: reserved words of each class that has any. -/
theorem test_decode_reserved_funct3 :
    decode 0x00001067#32 = .reserved ∧ decode 0x00002063#32 = .reserved ∧ decode 0x00003003#32 = .reserved ∧
    decode 0x00003023#32 = .reserved := by decide

/-- R80: reserved by w[31:25]; the last but two is MUL (R6). -/
theorem test_decode_reserved_funct7 :
    decode 0x02031293#32 = .reserved ∧ decode 0x60035293#32 = .reserved ∧ decode 0x027302B3#32 = .reserved ∧
    decode 0x207302B3#32 = .reserved ∧ decode 0x407312B3#32 = .reserved := by decide

/-- R88: the immediates of the table of section 2.3. -/
theorem test_branch_immediates :
    immBOf 0x80000063#32 = BitVec.ofInt 13 (-4096) ∧ immBOf 0x7E000FE3#32 = 4094#13 ∧
    immBOf 0xFFFFFFE3#32 = BitVec.ofInt 13 (-2) := by decide

theorem test_jump_immediates :
    immJOf 0x800000EF#32 = BitVec.ofInt 21 (-1048576) ∧ immJOf 0x7FFFF0EF#32 = 1048574#21 ∧
    immJOf 0xFFFFFFEF#32 = BitVec.ofInt 21 (-2) := by decide

/-- The host's reading of a table word, and that a placed word runs as the first instruction after reset (log 11). -/
theorem test_decodeTableWord : decodeTableWord 32 0x407302B3 = some (.sub 5#5 6#5 7#5) := by decide

theorem test_decodeTableWord_refuses : decodeTableWord 32 0x027302B3 = none := by decide

theorem test_placed_word_runs :
    seeStep (State.reset.withFetchWord 32 0x123452B7) (fun t => (t.getReg 5#5, t.pc, t.trace)) =
      some (0x12345000#32, 4#32, [.executed 0#32 0x123452B7#32 (.instr (.lui 5#5 0x12345#20)) .plain]) := by decide

/-! ### One step of each instruction (sections 2.1 to 2.8) -/

theorem test_lui :
    seeStep (start 0xFFFFF2B7#32 [] []) (regPc 5#5) =
      some (0xFFFFF000#32, 0x104#32) := by decide

theorem test_lui_x0 :
    seeStep (start 0x12345037#32 [] []) (regPc 0#5) =
      some (0#32, 0x104#32) := by decide

theorem test_auipc_wraps :
    seeStep (start 0xFFFFF297#32 [] []) (regPc 5#5) =
      some (0xFFFFF100#32, 0x104#32) := by decide

theorem test_jal :
    seeStep (start 0x008000EF#32 [] []) (regPc 1#5) =
      some (0x104#32, 0x108#32) := by decide

theorem test_jal_back :
    seeStep (start 0xFFDFF0EF#32 [] []) (regPc 1#5) =
      some (0x104#32, 0xFC#32) := by decide

theorem test_jalr_clears_bit0 :
    seeStep (start 0x004280E7#32 [(5#5, 0x201#32)] []) (regPc 1#5) =
      some (0x104#32, 0x204#32) := by decide

theorem test_jalr_reads_old_base :
    seeStep (start 0x000282E7#32 [(5#5, 0x200#32)] []) (regPc 5#5) =
      some (0x104#32, 0x200#32) := by decide

theorem test_beq_taken :
    seeStep (start 0x00208863#32 [(1#5, 5#32), (2#5, 5#32)] []) State.pc =
      some (0x110#32) := by decide

theorem test_beq_not_taken :
    seeStep (start 0x00208863#32 [(1#5, 5#32), (2#5, 6#32)] []) State.pc =
      some (0x104#32) := by decide

theorem test_bne_taken :
    seeStep (start 0xFE209CE3#32 [(1#5, 1#32), (2#5, 2#32)] []) State.pc =
      some (0xF8#32) := by decide

theorem test_blt_signed :
    seeStep (start 0x0020C663#32 [(1#5, 0xFFFFFFFF#32), (2#5, 1#32)] []) State.pc =
      some (0x10C#32) := by decide

theorem test_blt_equal_not_taken :
    seeStep (start 0x0020C663#32 [(1#5, 3#32), (2#5, 3#32)] []) State.pc =
      some (0x104#32) := by decide

theorem test_bge_equal :
    seeStep (start 0x0020D663#32 [(1#5, 7#32), (2#5, 7#32)] []) State.pc =
      some (0x10C#32) := by decide

theorem test_bge_not_taken :
    seeStep (start 0x0020D663#32 [(1#5, 0xFFFFFFFF#32), (2#5, 1#32)] []) State.pc =
      some (0x104#32) := by decide

theorem test_bltu_unsigned :
    seeStep (start 0x0020E663#32 [(1#5, 0xFFFFFFFF#32), (2#5, 1#32)] []) State.pc =
      some (0x104#32) := by decide

theorem test_bltu_taken :
    seeStep (start 0x0020E663#32 [(1#5, 0#32), (2#5, 0x80000000#32)] []) State.pc =
      some (0x10C#32) := by decide

theorem test_bgeu_taken :
    seeStep (start 0x0020F663#32 [(1#5, 0xFFFFFFFF#32), (2#5, 1#32)] []) State.pc =
      some (0x10C#32) := by decide

theorem test_lb_negative :
    seeStep (start 0x00030283#32 [(6#5, 0x1000#32)] [(0x1000, 0x80#8), (0x1001, 0x7F#8), (0x1002, 0xFE#8), (0x1003, 0xFF#8)]) (regPc 5#5) =
      some (0xFFFFFF80#32, 0x104#32) := by decide

theorem test_lb_x0_still_checked :
    seeStep (start 0xFFF30003#32 [(6#5, 0#32)] []) haltPc =
      some (true, .fatal (.dataOutOfRange 0xFFFFFFFF#32 0x100#32), 0x100#32) := by decide

theorem test_lh :
    seeStep (start 0x00231283#32 [(6#5, 0x1000#32)] [(0x1000, 0x80#8), (0x1001, 0x7F#8), (0x1002, 0xFE#8), (0x1003, 0xFF#8)]) (regPc 5#5) =
      some (0xFFFFFFFE#32, 0x104#32) := by decide

theorem test_lh_unaligned :
    seeStep (start 0x00131283#32 [(6#5, 0x1000#32)] [(0x1000, 0x80#8), (0x1001, 0x7F#8), (0x1002, 0xFE#8), (0x1003, 0xFF#8)]) (regPc 5#5) =
      some (0xFFFFFE7F#32, 0x104#32) := by decide

theorem test_lw_unaligned :
    seeStep (start 0x00132283#32 [(6#5, 0x1000#32)] [(0x1000, 0x80#8), (0x1001, 0x7F#8), (0x1002, 0xFE#8), (0x1003, 0xFF#8), (0x1004, 0x11#8)]) (regPc 5#5) =
      some (0x11FFFE7F#32, 0x104#32) := by decide

theorem test_lw_last_word :
    seeStep (start 0xFFC32283#32 [(6#5, 0x100000#32)] [(0xFFFFC, 1#8), (0xFFFFD, 2#8), (0xFFFFE, 3#8), (0xFFFFF, 4#8)]) (regPc 5#5) =
      some (0x04030201#32, 0x104#32) := by decide

theorem test_lbu :
    seeStep (start 0x00334283#32 [(6#5, 0x1000#32)] [(0x1000, 0x80#8), (0x1001, 0x7F#8), (0x1002, 0xFE#8), (0x1003, 0xFF#8)]) (regPc 5#5) =
      some (0x000000FF#32, 0x104#32) := by decide

theorem test_lhu :
    seeStep (start 0x00235283#32 [(6#5, 0x1000#32)] [(0x1000, 0x80#8), (0x1001, 0x7F#8), (0x1002, 0xFE#8), (0x1003, 0xFF#8)]) (regPc 5#5) =
      some (0x0000FFFE#32, 0x104#32) := by decide

theorem test_lhu_low :
    seeStep (start 0x00035283#32 [(6#5, 0x1000#32)] [(0x1000, 0x80#8), (0x1001, 0x7F#8), (0x1002, 0xFE#8), (0x1003, 0xFF#8)]) (regPc 5#5) =
      some (0x00007F80#32, 0x104#32) := by decide

theorem test_sb :
    seeStep (start 0x80730023#32 [(6#5, 0x1000#32), (7#5, 0x1FF#32)] []) (fun t => (t.byteAt 0x800, t.pc)) =
      some (0xFF#8, 0x104#32) := by decide

theorem test_sh :
    seeStep (start 0x7E731FA3#32 [(6#5, 0x1000#32), (7#5, 0xABCD#32)] []) (fun t => (t.byteAt 0x17FF, t.byteAt 0x1800)) =
      some (0xCD#8, 0xAB#8) := by decide

theorem test_sw_unaligned :
    seeStep (start 0x007320A3#32 [(6#5, 0x1000#32), (7#5, 0x12345678#32)] []) (fun t => [0x1001, 0x1002, 0x1003, 0x1004].map t.byteAt) =
      some [0x78#8, 0x56#8, 0x34#8, 0x12#8] := by decide

theorem test_sw_out_of_range :
    seeStep (start 0xFE732F23#32 [(6#5, 0x100000#32), (7#5, 0x12345678#32)] []) haltPc =
      some (true, .fatal (.dataOutOfRange 0xFFFFE#32 0x100#32), 0x100#32) := by decide

theorem test_addi_wraps :
    seeStep (start 0x00130293#32 [(6#5, 0x7FFFFFFF#32)] []) (regPc 5#5) =
      some (0x80000000#32, 0x104#32) := by decide

theorem test_addi_x0 :
    seeStep (start 0x00500013#32 [] []) (regPc 0#5) =
      some (0#32, 0x104#32) := by decide

theorem test_slti :
    seeStep (start 0x00532293#32 [(6#5, 0xFFFFFFFF#32)] []) (regPc 5#5) =
      some (1#32, 0x104#32) := by decide

theorem test_slti_equal :
    seeStep (start 0x00532293#32 [(6#5, 5#32)] []) (regPc 5#5) =
      some (0#32, 0x104#32) := by decide

theorem test_sltiu_sign_extends :
    seeStep (start 0xFFF33293#32 [(6#5, 0#32)] []) (regPc 5#5) =
      some (1#32, 0x104#32) := by decide

theorem test_sltiu_equal :
    seeStep (start 0x00133293#32 [(6#5, 1#32)] []) (regPc 5#5) =
      some (0#32, 0x104#32) := by decide

theorem test_xori :
    seeStep (start 0xFFF34293#32 [(6#5, 0x0F0F0F0F#32)] []) (regPc 5#5) =
      some (0xF0F0F0F0#32, 0x104#32) := by decide

theorem test_ori :
    seeStep (start 0x80036293#32 [(6#5, 1#32)] []) (regPc 5#5) =
      some (0xFFFFF801#32, 0x104#32) := by decide

theorem test_andi :
    seeStep (start 0xFF037293#32 [(6#5, 0x12345678#32)] []) (regPc 5#5) =
      some (0x12345670#32, 0x104#32) := by decide

theorem test_slli :
    seeStep (start 0x01F31293#32 [(6#5, 1#32)] []) (regPc 5#5) =
      some (0x80000000#32, 0x104#32) := by decide

theorem test_srli :
    seeStep (start 0x01F35293#32 [(6#5, 0x80000000#32)] []) (regPc 5#5) =
      some (0x00000001#32, 0x104#32) := by decide

theorem test_srai :
    seeStep (start 0x41F35293#32 [(6#5, 0x80000000#32)] []) (regPc 5#5) =
      some (0xFFFFFFFF#32, 0x104#32) := by decide

theorem test_srai_positive :
    seeStep (start 0x40435293#32 [(6#5, 0x7FFFFFF0#32)] []) (regPc 5#5) =
      some (0x07FFFFFF#32, 0x104#32) := by decide

theorem test_add_wraps :
    seeStep (start 0x007302B3#32 [(6#5, 0xFFFFFFFF#32), (7#5, 1#32)] []) (regPc 5#5) =
      some (0#32, 0x104#32) := by decide

theorem test_add_same_register :
    seeStep (start 0x005282B3#32 [(5#5, 0x40000000#32)] []) (regPc 5#5) =
      some (0x80000000#32, 0x104#32) := by decide

theorem test_sub :
    seeStep (start 0x407302B3#32 [(6#5, 0#32), (7#5, 1#32)] []) (regPc 5#5) =
      some (0xFFFFFFFF#32, 0x104#32) := by decide

theorem test_sll_by_32 :
    seeStep (start 0x007312B3#32 [(6#5, 3#32), (7#5, 32#32)] []) (regPc 5#5) =
      some (3#32, 0x104#32) := by decide

theorem test_sll_by_33 :
    seeStep (start 0x007312B3#32 [(6#5, 3#32), (7#5, 33#32)] []) (regPc 5#5) =
      some (6#32, 0x104#32) := by decide

theorem test_slt :
    seeStep (start 0x007322B3#32 [(6#5, 0x80000000#32), (7#5, 0x7FFFFFFF#32)] []) (regPc 5#5) =
      some (1#32, 0x104#32) := by decide

theorem test_sltu :
    seeStep (start 0x007332B3#32 [(6#5, 0xFFFFFFFF#32), (7#5, 1#32)] []) (regPc 5#5) =
      some (0#32, 0x104#32) := by decide

theorem test_sltu_snez :
    seeStep (start 0x007032B3#32 [(7#5, 9#32)] []) (regPc 5#5) =
      some (1#32, 0x104#32) := by decide

theorem test_xor :
    seeStep (start 0x006342B3#32 [(6#5, 0x1234#32)] []) (regPc 5#5) =
      some (0#32, 0x104#32) := by decide

theorem test_srl_by_31 :
    seeStep (start 0x007352B3#32 [(6#5, 0x80000000#32), (7#5, 0xFFFFFFFF#32)] []) (regPc 5#5) =
      some (1#32, 0x104#32) := by decide

theorem test_sra :
    seeStep (start 0x407352B3#32 [(6#5, 0x80000000#32), (7#5, 31#32)] []) (regPc 5#5) =
      some (0xFFFFFFFF#32, 0x104#32) := by decide

theorem test_sra_by_32 :
    seeStep (start 0x407352B3#32 [(6#5, 0x80000000#32), (7#5, 32#32)] []) (regPc 5#5) =
      some (0x80000000#32, 0x104#32) := by decide

theorem test_or :
    seeStep (start 0x007362B3#32 [(6#5, 0xF0#32), (7#5, 0x0F#32)] []) (regPc 5#5) =
      some (0xFF#32, 0x104#32) := by decide

theorem test_and :
    seeStep (start 0x007372B3#32 [(6#5, 0xFF00FF00#32), (7#5, 0x0FF00FF0#32)] []) (regPc 5#5) =
      some (0x0F000F00#32, 0x104#32) := by decide

/-! ### The calls, EBREAK, FENCE, and the words that name no instruction (section 2.8) -/

theorem test_ecall_print_int :
    seeStep (start 0x00000073#32 [(10#5, 100#32), (11#5, 0x80000000#32)] []) (fun t => (t.diag, t.pc)) =
      some ([.printInt (-2147483648)], 0x104#32) := by decide

theorem test_ecall_exit :
    seeStep (start 0x00000073#32 [(10#5, 0#32)] []) (fun t => (haltPc t, t.diag)) =
      some ((true, .exit, 0x104#32), [.exitCall]) := by decide

theorem test_ecall_unknown_is_unsigned :
    seeStep (start 0x00000073#32 [(10#5, 0xFFFFFFFF#32)] []) (fun t => (t.diag, t.pc)) =
      some ([.unknownCall 4294967295#32], 0x104#32) := by decide

theorem test_ecall_print_string :
    seeStep (start 0x00000073#32 [(10#5, 101#32), (11#5, 0x1000#32)] [(0x1000, 0x4F#8), (0x1001, 0x4B#8), (0x1002, 0#8)]) State.diag =
      some [.printStr [0x4F#8, 0x4B#8]] := by decide

theorem test_ecall_string_out_of_range :
    seeStep (start 0x00000073#32 [(10#5, 101#32), (11#5, 0xFFFFE#32)] [(0xFFFFE, 0x41#8), (0xFFFFF, 0x42#8)]) (fun t => (haltPc t, t.diag)) =
      some ((true, .fatal (.dataOutOfRange 0x100000#32 0x100#32), 0x100#32), []) := by decide

/-- Call 103 with x5 = 7: x0 reads 0, x5 7, x10 103, the others 0. -/
theorem test_ecall_dump :
    seeStep (start 0x00000073#32 [(10#5, 103#32), (5#5, 7#32)] []) State.diag =
      some [.dumpRegs (((Vector.replicate 32 0#32).set 5 7#32).set 10 103#32)] := by decide

/-- Call 200: the iteration's LED mirror takes one switch value, the call the next (R181, R196). -/
theorem test_ecall_read_input :
    seeStep { start 0x00000073#32 [(10#5, 200#32)] [] with switches := [1#32, 0x5A#32] }
      (fun t => (t.getReg 10#5, t.diag, t.led, t.switches)) = some (0x5A#32, [.inputRead 0x5A#32], 1#32, []) := by decide

theorem test_ebreak :
    seeStep (start 0x00100073#32 [] []) (fun t => (t.paused, t.pc)) =
      some (true, 0x104#32) := by decide

theorem test_fence :
    seeStep (start 0x0FF0000F#32 [] []) (fun t => (t.pc, lastTrace t)) =
      some (0x104#32, some (.executed 0x100#32 0x0FF0000F#32 (.instr .fence) .unsupported)) := by decide

theorem test_unknown_word :
    seeStep (start 0x00000000#32 [] []) (fun t => (t.pc, lastTrace t)) =
      some (0x104#32, some (.executed 0x100#32 0#32 .unknown .unknown)) := by decide

theorem test_reserved_soft :
    seeStep (start 0x027302B3#32 [(5#5, 0x55#32)] []) (fun t => (t.getReg 5#5, t.pc, lastTrace t)) =
      some (0x55#32, 0x104#32, some (.executed 0x100#32 0x027302B3#32 .reserved .unknown)) := by decide

theorem test_reserved_fault :
    seeStep { start 0x00002063#32 [] [] with params := { testParams with reserved := .fault } } haltPc =
      some (true, .fatal (.reservedEncoding 0x00002063#32 0x100#32), 0x100#32) := by decide

/-! ### The step's checks (section 2.10) -/

theorem test_pc_out_of_bounds :
    seeStep (quiet.setPc 0x100000#32) haltPc =
      some (true, .fatal (.pcOutOfBounds 0x100000#32), 0x100000#32) := by decide

theorem test_fetch_out_of_range :
    seeStep { quiet with params := { testParams with memSize := 0x100002 }, pc := 0x100000#32 } haltPc =
      some (true, .fatal (.fetchOutOfRange 0x100000#32), 0x100000#32) := by decide

theorem test_unaligned_fetch :
    seeStep ((quiet.setPc 0x102#32).memWrite 0x102#32 4 0x00100293#32) (regPc 5#5) = some (1#32, 0x106#32) := by decide

theorem test_misaligned_pc :
    seeStep { quiet with params := { testParams with misalignedPc := .fault }, pc := 0x102#32 } haltPc =
      some (true, .fatal (.misalignedPc 0x102#32), 0x102#32) := by decide

/-! ### The loader and reset (section 2.9) -/

/-- The valid 52-byte header. -/
def header : List Byte :=
  [0x7F#8, 0x45#8, 0x4C#8, 0x46#8, 1#8, 1#8, 1#8, 0#8] ++ List.replicate 8 0#8 ++ [2#8, 0#8, 0xF3#8, 0#8] ++
  List.replicate 4 0#8 ++ [0x34#8, 0#8, 0#8, 0#8] ++ List.replicate 24 0#8

/-- The header and one byte. -/
def image53 : List Byte := header ++ [0xAA#8]

/-- Memory so small that the upper bound on an image can be tried. -/
def smallParams : Params := { testParams with memSize := 64 }

theorem test_load_51 : loadImage testParams (header.take 51) = .error (.badSize 51) := by decide
theorem test_load_52 : loadImage testParams header = .error (.badSize 52) := by decide
theorem test_load_53 : loadImage testParams image53 = .ok 0x34#32 := by decide
theorem test_load_below_mem_size : loadImage smallParams (header ++ List.replicate 11 0#8) = .ok 0x34#32 := by decide
theorem test_load_mem_size : loadImage smallParams (header ++ List.replicate 12 0#8) = .error (.badSize 64) := by decide
theorem test_load_magic : loadImage testParams (image53.set 4 2#8) = .error .badMagic := by decide
theorem test_load_type : loadImage testParams (image53.set 16 3#8) = .error .badType := by decide
theorem test_load_machine : loadImage testParams (image53.set 18 0x28#8) = .error .badMachine := by decide
theorem test_load_first_failing : loadImage testParams ((image53.set 0 0#8).set 16 3#8) = .error .badMagic := by decide

/-- A state in which the reset button has been pressed and the host supplies the image. -/
def pressed (image : List Byte) : State :=
  { start 0x00000073#32 [(5#5, 7#32)] [] with buttons := [8#32], images := [image], paused := true }

theorem test_reset_good :
    seeStep (pressed image53) (fun t => (t.pc, t.getReg 5#5, t.byteAt 0, t.byteAt 52, t.runState)) =
      some (0x34#32, 0#32, 0x7F#8, 0xAA#8, .running) := by decide

theorem test_reset_bad :
    seeStep (pressed header) (fun t => (haltPc t, t.getReg 5#5, t.diag, t.runState)) =
      some ((true, .loadError (.badSize 52), 0#32), 0#32, [.loadFailed (.badSize 52)], .halted) := by decide

/-! ### Run control (programs P6 and P7) -/

/-- EBREAK at 0x100, Running, with a button mask. -/
def runningBreak (b : Word) : State := { start 0x00100073#32 [] [] with buttons := [b] }
/-- ADDI x10, x0, 0 at 0x100, Paused, with a button mask. -/
def pausedAddi (b : Word) : State := { start 0x00000513#32 [(10#5, 101#32)] [] with buttons := [b], paused := true }

/-- P7, first part: toggle and step while Running. -/
theorem test_toggle_and_step_running :
    seeStep (runningBreak 3#32) (fun t => (t.runState, t.pc, t.stepReq)) = some (.paused, 0x104#32, false) := by decide

/-- P7, second part: toggle and step while Paused. -/
theorem test_toggle_and_step_paused :
    seeStep (pausedAddi 3#32) (fun t => (t.runState, t.pc, t.stepReq)) = some (.running, 0x104#32, false) := by decide

/-- P6, iteration 7. -/
theorem test_single_step :
    seeStep (pausedAddi 1#32) (fun t => (t.runState, t.pc, t.getReg 10#5)) = some (.paused, 0x104#32, 0#32) := by decide

/-- P6, iteration 6. -/
theorem test_paused_does_nothing :
    seeStep (pausedAddi 0#32) (fun t => (t.runState, t.pc, t.getReg 10#5)) = some (.paused, 0x100#32, 101#32) := by decide

/-- R201: a toggle while Paused continues, and its iteration runs one step. -/
theorem test_toggle_continues :
    seeStep (pausedAddi 2#32) (fun t => (t.runState, t.pc, t.getReg 10#5)) = some (.running, 0x104#32, 0#32) := by decide

/-- P6, iterations 10 and 11: toggle and step are ignored while Halted. -/
theorem test_halted_ignores_buttons :
    seeStep { pausedAddi 3#32 with exited := true, haltReason := .exit } (fun t => (t.runState, t.pc, t.paused, t.stepReq)) =
      some (.halted, 0x100#32, true, false) := by decide

/-! ### Witnesses: the hypotheses of the obligations can be met -/

/-- x6 = `a`, the state the loads and stores below start from. -/
def based (a : Word) : State := start 0x00000013#32 [(6#5, a), (7#5, 0x12345678#32)] []

/-- WritesRegister and LinksAndJumps: a destination that is not x0 (the other form is rd = x0). -/
theorem witness_destination : (31#5 : RegIdx) ≠ 0#5 := by decide

/-- Byte access: the last byte of memory is inside, the next is not. -/
theorem witness_byte_access : AccessInside (based 0xFFFFF#32) 0xFFFFF#32 1 ∧ ¬ AccessInside (based 0xFFFFF#32) 0x100000#32 1 := by
  rw [← State.inRange_iff_accessInside, ← State.inRange_iff_accessInside]
  decide

theorem witness_half_access : AccessInside (based 0xFFFFE#32) 0xFFFFE#32 2 ∧ ¬ AccessInside (based 0xFFFFE#32) 0xFFFFF#32 2 := by
  rw [← State.inRange_iff_accessInside, ← State.inRange_iff_accessInside]
  decide

theorem witness_word_access : AccessInside (based 0xFFFFC#32) 0xFFFFC#32 4 ∧ ¬ AccessInside (based 0xFFFFC#32) 0xFFFFD#32 4 := by
  rw [← State.inRange_iff_accessInside, ← State.inRange_iff_accessInside]
  decide

/-- An access that wraps at 2^32 is not inside (R41). -/
theorem witness_wrapping_access : ¬ AccessInside (based 0#32) 0xFFFFFFFF#32 2 := by
  rw [← State.inRange_iff_accessInside]
  decide

/-- LoadAndFetchSeeTheStore: a store at the last word of memory, and a load that computes the same address in another way. -/
theorem witness_store_then_load :
    ∃ t, exec (.sw 6#5 7#5 0#12) (based 0xFFFFC#32) = .next t ∧
      AccessInside (based 0xFFFFC#32) (effectiveAddress ((based 0xFFFFC#32).getReg 6#5) 0#12) 4 ∧
      effectiveAddress (t.getReg 6#5) 0#12 = effectiveAddress ((based 0xFFFFC#32).getReg 6#5) 0#12 := by
  refine ⟨_, rfl, ?_, by decide⟩
  rw [← State.inRange_iff_accessInside]
  decide

theorem witness_half_store_then_load :
    ∃ t, exec (.sh 6#5 7#5 0#12) (based 0xFFFFE#32) = .next t ∧
      AccessInside (based 0xFFFFE#32) (effectiveAddress ((based 0xFFFFE#32).getReg 6#5) 0#12) 2 ∧
      effectiveAddress (t.getReg 6#5) 0#12 = effectiveAddress ((based 0xFFFFE#32).getReg 6#5) 0#12 := by
  refine ⟨_, rfl, ?_, by decide⟩
  rw [← State.inRange_iff_accessInside]
  decide

theorem witness_byte_store_then_load :
    ∃ t, exec (.sb 6#5 7#5 0#12) (based 0xFFFFF#32) = .next t ∧
      AccessInside (based 0xFFFFF#32) (effectiveAddress ((based 0xFFFFF#32).getReg 6#5) 0#12) 1 ∧
      effectiveAddress (t.getReg 6#5) 0#12 = effectiveAddress ((based 0xFFFFF#32).getReg 6#5) 0#12 := by
  refine ⟨_, rfl, ?_, by decide⟩
  rw [← State.inRange_iff_accessInside]
  decide

/-- A state about to make a call. -/
def calling (n arg : Word) (bytes : List Host.Cell) : State := start 0x00000073#32 [(10#5, n), (11#5, arg)] bytes

theorem witness_call_numbers :
    (calling 0#32 0#32 []).getReg 10#5 = 0#32 ∧ (calling 100#32 0#32 []).getReg 10#5 = 100#32 ∧
    (calling 103#32 0#32 []).getReg 10#5 = 103#32 := by decide

/-- EcallPrintsStringUpToZeroOrBound, a zero byte before the bound. -/
theorem witness_string_to_zero :
    let s := calling 101#32 0xFFFFE#32 [(0xFFFFE, 0x41#8), (0xFFFFF, 0#8)]
    s.getReg 10#5 = 101#32 ∧ 1 < s.params.strMax ∧
    (∀ k, k < 1 → byteAddr (s.getReg 11#5) k < s.params.memSize ∧ s.byteAt (byteAddr (s.getReg 11#5) k) ≠ 0#8) ∧
    byteAddr (s.getReg 11#5) 1 < s.params.memSize ∧ s.byteAt (byteAddr (s.getReg 11#5) 1) = 0#8 := by decide

/-- EcallPrintsStringUpToZeroOrBound, the bound before any zero byte: STR_MAX = 2 and no zero among the two bytes. -/
theorem witness_string_to_bound :
    let s := { calling 101#32 0xFFFFE#32 [(0xFFFFE, 0x41#8), (0xFFFFF, 0x42#8)] with
      params := { testParams with strMax := 2 } }
    s.getReg 10#5 = 101#32 ∧ 2 = s.params.strMax ∧
    (∀ k, k < 2 → byteAddr (s.getReg 11#5) k < s.params.memSize ∧ s.byteAt (byteAddr (s.getReg 11#5) k) ≠ 0#8) := by decide

/-- EcallStringOutOfRangeHalts: two bytes inside, the third outside. -/
theorem witness_string_out_of_range :
    let s := calling 101#32 0xFFFFE#32 [(0xFFFFE, 0x41#8), (0xFFFFF, 0x42#8)]
    s.getReg 10#5 = 101#32 ∧ 2 < s.params.strMax ∧
    (∀ k, k < 2 → byteAddr (s.getReg 11#5) k < s.params.memSize ∧ s.byteAt (byteAddr (s.getReg 11#5) k) ≠ 0#8) ∧
    s.params.memSize ≤ byteAddr (s.getReg 11#5) 2 := by decide

/-- EcallReadsSwitchesIntoA0, a listed value. -/
theorem witness_switch_listed :
    let s := { calling 200#32 0#32 [] with switches := [0x5A#32] }
    s.getReg 10#5 = 200#32 ∧ s.switches = 0x5A#32 :: [] := by decide

/-- EcallReadsSwitchesIntoA0, the free value. -/
theorem witness_switch_free :
    let s := calling 200#32 0#32 []
    s.getReg 10#5 = 200#32 ∧ s.switches = [] ∧
      (∃ v, v = Config.freeSwitch s.freeSwitches) := ⟨by decide, by decide, _, rfl⟩

/-- EcallUnknownNumberOnlyReports: numbers beside each of the served ones. -/
theorem witness_unknown_calls :
    (∀ n ∈ [1#32, 99#32, 102#32, 104#32, 199#32, 201#32, 0xFFFFFFFF#32], n ∉ [0#32, 100#32, 101#32, 103#32, 200#32]) ∧
    (calling 1#32 0#32 []).getReg 10#5 = 1#32 ∧ (calling 0xFFFFFFFF#32 0#32 []).getReg 10#5 = 0xFFFFFFFF#32 :=
  ⟨by simp, by decide, by decide⟩

/-- FenceIsNoOpOnState, its second part. -/
theorem witness_fence_fetched :
    let s := start 0x0FF0000F#32 [] []
    s.exited = false ∧ s.fetchFatal = none ∧ s.fetchWord.toNat % 128 = 0x0F := by decide

theorem witness_unknown_fetched :
    let s := start 0x0000002F#32 [] []
    s.exited = false ∧ s.fetchFatal = none ∧
      s.fetchWord.toNat % 128 ∉ [0x37, 0x17, 0x6F, 0x67, 0x63, 0x03, 0x23, 0x13, 0x33, 0x73, 0x0F] := by decide

/-- ReservedWordFollowsItsPolicy, one state for each policy. -/
theorem witness_reserved_fetched :
    let s := start 0x00002063#32 [] []
    let t := { s with params := { testParams with reserved := .fault } }
    (s.exited = false ∧ s.fetchFatal = none ∧ decode s.fetchWord = .reserved ∧ s.params.reserved = .softNop) ∧
    (t.exited = false ∧ t.fetchFatal = none ∧ decode t.fetchWord = .reserved ∧ t.params.reserved = .fault) := by decide

theorem witness_well_formed : (Instr.jal 31#5 (BitVec.ofInt 21 (-2))).wellFormed = true := by decide

/-- EncodeOfDecodeIsTheWord: a word of a class that uses every field, and one that ignores some. -/
theorem witness_decoded :
    decode 0xFFFFFFEF#32 = .instr (.jal 31#5 (BitVec.ofInt 21 (-2))) ∧ decode 0xC00022F3#32 = .instr .ebreak := by decide

/-- ImmediatesHaveTheirIntegerValues, its clause on the instructions that take imm_I: LW at the least immediate. -/
theorem witness_takes_imm_i : decode 0x80032283#32 = .instr (.lw 5#5 6#5 (BitVec.ofInt 12 (-2048))) := by decide

/-- EveryIterationTakesOneMask, both clauses. -/
theorem witness_masks : (runningBreak 3#32).buttons = 3#32 :: [] ∧ State.reset.buttons = [] := by decide

/-- OpcodeTableRowsDecodeToTheirInstruction: each row is matched, by its own pattern and by the word with every free bit set. -/
theorem witness_rows_matched :
    ∀ row ∈ tableRowsByOpcode ++ tableRowsByFunct3 ++ tableRowsByFunct7,
      row.pattern &&& row.mask = row.pattern ∧ (row.pattern ||| ~~~row.mask) &&& row.mask = row.pattern := by decide

/-- The table has 40 rows, each with its own mnemonic. -/
theorem test_rows_counted :
    ((tableRowsByOpcode ++ tableRowsByFunct3 ++ tableRowsByFunct7).map TableRow.mnemonic).Nodup ∧
    (tableRowsByOpcode ++ tableRowsByFunct3 ++ tableRowsByFunct7).length = 40 := by decide

/-- UnknownReservedAndSystemWords: the two kinds of SYSTEM word, and a MISC-MEM word. -/
theorem witness_system_words :
    (0x00000073#32 : Word).toNat % 128 = 0x73 ∧ (0x00000073#32 : Word).toNat / 2 ^ 20 = 0 ∧
    (0x00100073#32 : Word).toNat % 128 = 0x73 ∧ (0x00100073#32 : Word).toNat / 2 ^ 20 ≠ 0 ∧
    (0x0FF0000F#32 : Word).toNat % 128 = 0x0F := by decide

/-- StepRunsTheDecodedInstruction, Running; the instruction is LUI. -/
theorem witness_step_runs :
    let s := start 0x123452B7#32 [] []
    let u := s.poll.applySignals s.buttonSample
    s.buttonSample.getLsbD 3 = false ∧ u.exited = false ∧ (u.paused = false ∨ u.stepReq = true) ∧ u.fetchFatal = none ∧
    decode (s.byteAt (byteAddr s.pc 3) ++ s.byteAt (byteAddr s.pc 2) ++ s.byteAt (byteAddr s.pc 1) ++ s.byteAt (byteAddr s.pc 0)) =
      .instr (.lui 5#5 0x12345#20) ∧ ∃ t, exec (.lui 5#5 0x12345#20) u = .next t :=
  ⟨by decide, by decide, by decide, by decide, by decide, _, rfl⟩

/-- StepRunsTheDecodedInstruction, Paused with a step request. -/
theorem witness_step_runs_paused :
    let s := pausedAddi 1#32
    let u := s.poll.applySignals s.buttonSample
    s.buttonSample.getLsbD 3 = false ∧ u.exited = false ∧ u.paused = true ∧ u.stepReq = true ∧ u.fetchFatal = none := by decide

/-- PcOutOfBoundsHaltsTheStep, both clauses at MEM_SIZE. -/
theorem witness_pc_bound :
    (State.reset.setPc 0x100000#32).params.memSize ≤ (State.reset.setPc 0x100000#32).pc.toNat ∧
    (State.reset.setPc 0xFFFFF#32).pc.toNat < (State.reset.setPc 0xFFFFF#32).params.memSize := by decide

/-- FetchChecksHaltInOrder, MisalignedPc. -/
theorem witness_misaligned :
    let s := { State.reset with params := { testParams with misalignedPc := .fault }, pc := 0xFFFFE#32 }
    s.pc.toNat < s.params.memSize ∧ s.params.misalignedPc = .fault ∧ s.pc.toNat % 4 ≠ 0 := by decide

/-- FetchChecksHaltInOrder, FetchOutOfRange under FetchUnaligned. -/
theorem witness_fetch_crossing :
    let s := State.reset.setPc 0xFFFFD#32
    s.pc.toNat < s.params.memSize ∧ s.params.misalignedPc = .fetchUnaligned ∧ ¬ AccessInside s s.pc 4 := by
  intro s
  rw [← State.inRange_iff_accessInside]
  decide

/-- FetchChecksHaltInOrder, the last word that can be fetched, under either policy. -/
theorem witness_fetch_last :
    let s := State.reset.setPc 0xFFFFC#32
    s.pc.toNat < s.params.memSize ∧ s.pc.toNat % 4 = 0 ∧ AccessInside s s.pc 4 := by
  intro s
  rw [← State.inRange_iff_accessInside]
  decide

/-- HaltedExecutesNothing, with toggle and step pressed. -/
theorem witness_halted :
    let s := { pausedAddi 3#32 with exited := true, haltReason := .exit }
    s.exited = true ∧ s.buttonSample = 3#32 ∧ s.buttonSample.getLsbD 3 = false := by decide

/-- PausedWaitsForASignal, with the one button that no rule names pressed. -/
theorem witness_paused :
    let s := pausedAddi 4#32
    s.exited = false ∧ s.paused = true ∧ s.stepReq = false ∧ s.buttonSample = 4#32 ∧ s.buttonSample.getLsbD 0 = false ∧
    s.buttonSample.getLsbD 1 = false ∧ s.buttonSample.getLsbD 3 = false := by decide

/-- ToggleActsBeforeTheStep, the toggle while Paused, without and with a step request (the word is no EBREAK). -/
theorem witness_toggle_paused :
    let s := pausedAddi 2#32
    let t := pausedAddi 3#32
    (s.exited = false ∧ s.stepReq = false ∧ s.paused = true ∧ s.buttonSample.getLsbD 1 = true ∧
      s.buttonSample.getLsbD 3 = false ∧ s.buttonSample.getLsbD 0 = false ∧ decode s.fetchWord ≠ .instr .ebreak) ∧
    (t.exited = false ∧ t.stepReq = false ∧ t.paused = true ∧ t.buttonSample.getLsbD 1 = true ∧
      t.buttonSample.getLsbD 3 = false ∧ t.buttonSample.getLsbD 0 = true) := by decide

/-- ToggleActsBeforeTheStep, the toggle while Running, without and with a step request. -/
theorem witness_toggle :
    let s := runningBreak 2#32
    let t := runningBreak 3#32
    (s.exited = false ∧ s.paused = false ∧ s.stepReq = false ∧ s.buttonSample.getLsbD 1 = true ∧
      s.buttonSample.getLsbD 3 = false ∧ s.buttonSample.getLsbD 0 = false) ∧
    (t.exited = false ∧ t.paused = false ∧ t.stepReq = false ∧ t.buttonSample.getLsbD 1 = true ∧
      t.buttonSample.getLsbD 3 = false ∧ t.buttonSample.getLsbD 0 = true) := by decide

/-- SingleStepReturnsToPaused, and PausedStepEqualsRunningStep. -/
theorem witness_single_step :
    let s := pausedAddi 1#32
    s.exited = false ∧ s.paused = true ∧ s.buttonSample.getLsbD 0 = true ∧ s.buttonSample.getLsbD 1 = false ∧
    s.buttonSample.getLsbD 3 = false := by decide

/-- ResetLoadsTheImageAndStartsFresh, with the smallest image that loads, and every button pressed. -/
theorem witness_reset_good :
    let s := { pressed image53 with buttons := [15#32] }
    s.buttonSample.getLsbD 3 = true ∧ s.nextImage = image53 ∧ loadImage s.params image53 = .ok 0x34#32 := by decide

/-- ResetWithBadImageHalts, with the empty image. -/
theorem witness_reset_empty_image :
    let s := pressed []
    s.buttonSample.getLsbD 3 = true ∧ s.nextImage = [] ∧ loadImage s.params [] = .error (.badSize 0) := by decide

/-- ResetWithBadImageHalts, with the largest image that is too small. -/
theorem witness_reset_bad :
    let s := pressed header
    s.buttonSample.getLsbD 3 = true ∧ s.nextImage = header ∧ loadImage s.params header = .error (.badSize 52) := by decide

/-- LoaderNamesTheFirstFailingCheck (the five answers are tested above), and the parameters of every test. -/
theorem witness_params : testParams.wf ∧ smallParams.wf := by decide

/-- IterationKeepsTheInvariant: a state with the invariant, and its next state. -/
theorem witness_invariant : (start 0x123452B7#32 [] []).Inv ∧ ∃ t, step (start 0x123452B7#32 [] []) = .next t :=
  ⟨⟨by decide, by decide, by decide, by decide, by decide, by decide, by decide⟩, _, rfl⟩

/-- OnlyTheNamedRegistersAreWritten: an instruction with a destination, and call 200. -/
theorem witness_register_changes :
    see (exec (.lui 5#5 1#20) State.reset) (fun t => decide (t.getReg 5#5 ≠ State.reset.getReg 5#5)) = some true ∧
    see (exec .ecall { calling 200#32 0#32 [] with switches := [0x5A#32] })
      (fun t => decide (t.getReg 10#5 ≠ 200#32)) = some true := by decide

/-- OnlyStoresChangeMemory: a store that changes a byte. -/
theorem witness_memory_changes :
    see (exec (.sb 6#5 7#5 0#12) (start 0#32 [(6#5, 0x100#32), (7#5, 5#32)] [])) (fun t => decide (t.byteAt 0x100 ≠ 0#8)) =
      some true := by decide

/-- OtherInstructionsAdvancePcByFour: an instruction that completes, and one that halts. -/
theorem witness_advance :
    transfersControl (.lb 5#5 6#5 0#12) = false ∧ (∃ t, exec (.lb 5#5 6#5 0#12) (based 0xFFFFF#32) = .next t) ∧
    ∃ t, exec (.lb 5#5 6#5 0#12) (based 0x100000#32) = .next t := ⟨rfl, ⟨_, rfl⟩, _, rfl⟩

/-- OnlyExitFaultOrFailedLoadHalts: the three ways. -/
theorem witness_halts :
    (calling 0#32 0#32 []).exited = false ∧ seeStep (calling 0#32 0#32 []) State.exited = some true ∧
    (quiet.setPc 0x100000#32).exited = false ∧ seeStep (quiet.setPc 0x100000#32) State.exited = some true ∧
    (pressed header).exited = false ∧ seeStep (pressed header) State.exited = some true := by decide

/-- PlacedWordIsFetchedNext: a pc that can be fetched, and one that cannot. -/
theorem witness_placing :
    (based 0#32).params.wf ∧ (based 0#32).fetchFatal = none ∧ ((based 0#32).setPc 0xFFFFF000#32).params.wf ∧
    ((based 0#32).setPc 0xFFFFF000#32).fetchFatal ≠ none := by decide

end Sys2Proof.Machine.Test
end

section
/-! SUPPORT. Family 30_encoding, the immediates: the re-encoding of R88 (O34), and the immediates as integers (O35). -/

namespace Sys2Proof

/-! ### The re-encoding of R88 is the model's encoder -/

/-- R88's `encB(imm, rest)`, over the bits it keeps of a word, is the B layout of R64 with that word's other fields. -/
theorem keep_or_immB_eq_encB (w : Word) (imm : BitVec 13) :
    (w &&& 0x01FFF07F#32) ||| (imm.extractLsb' 12 1).setWidth 32 <<< 31 ||| (imm.extractLsb' 5 6).setWidth 32 <<< 25 |||
        (imm.extractLsb' 1 4).setWidth 32 <<< 8 ||| (imm.extractLsb' 11 1).setWidth 32 <<< 7 =
      encB imm (rs2Of w) (rs1Of w) (funct3Of w) (opcodeOf w) := by
  refine BitVec.eq_of_getLsbD_eq fun i hi => ?_
  simp only [encB, rs2Of, rs1Of, funct3Of, opcodeOf, BitVec.getLsbD_or, BitVec.getLsbD_and, BitVec.getLsbD_shiftLeft,
    BitVec.getLsbD_setWidth, BitVec.getLsbD_extractLsb', BitVec.getLsbD_append]
  interval_cases i <;> simp

/-- R88's `encJ(imm, rest)`, over the bits it keeps of a word, is the J layout of R66 with that word's other fields. -/
theorem keep_or_immJ_eq_encJ (w : Word) (imm : BitVec 21) :
    (w &&& 0x00000FFF#32) ||| (imm.extractLsb' 20 1).setWidth 32 <<< 31 ||| (imm.extractLsb' 1 10).setWidth 32 <<< 21 |||
        (imm.extractLsb' 11 1).setWidth 32 <<< 20 ||| (imm.extractLsb' 12 8).setWidth 32 <<< 12 =
      encJ imm (rdOf w) (opcodeOf w) := by
  refine BitVec.eq_of_getLsbD_eq fun i hi => ?_
  simp only [encJ, rdOf, opcodeOf, BitVec.getLsbD_or, BitVec.getLsbD_and, BitVec.getLsbD_shiftLeft,
    BitVec.getLsbD_setWidth, BitVec.getLsbD_extractLsb', BitVec.getLsbD_append]
  interval_cases i <;> simp

/-- Settles O34: R88's re-encodings are the model's encB and encJ, which put a word together again from its own fields. -/
theorem branchAndJumpImmediatesRoundTrip : Obligations.BranchAndJumpImmediatesRoundTrip := fun w =>
  ⟨(keep_or_immB_eq_encB w (immBOf w)).trans (encB_fields w), (keep_or_immJ_eq_encJ w (immJOf w)).trans (encJ_fields w)⟩

/-! ### The immediates as integers (R68, R70 to R73) -/

/-- Only the top part of two bit vectors put together carries the sign. -/
theorem toInt_append_of_ne_zero {n k : Nat} (hn : n ≠ 0) (x : BitVec n) (y : BitVec k) :
    (x ++ y).toInt = 2 ^ k * x.toInt + y.toNat := by simp [BitVec.toInt_append, hn]

/-- The high bits of a word, read as signed, are its signed value divided (rounding down) by the weight of their lowest bit. -/
theorem toInt_extractLsb'_high {n k : Nat} (hn : n ≠ 0) (x : BitVec (n + k)) :
    (x.extractLsb' k n).toInt = x.toInt / 2 ^ k := by
  have hx : x.toInt = 2 ^ k * (x.extractLsb' k n).toInt + (x.extractLsb' 0 k).toNat := by
    rw [← toInt_append_of_ne_zero hn, BitVec.extractLsb'_append_extractLsb']
  have hlow : ((x.extractLsb' 0 k).toNat : Int) < 2 ^ k := by exact_mod_cast (x.extractLsb' 0 k).isLt
  rw [hx, Int.add_comm, Int.add_mul_ediv_left _ _ (by positivity), Int.ediv_eq_zero_of_lt (by positivity) hlow, Int.zero_add]

theorem immIOf_toInt (w : Word) : (immIOf w).toInt = w.toInt / 2 ^ 20 :=
  toInt_extractLsb'_high (n := 12) (k := 20) (by decide) w

theorem immSOf_toInt (w : Word) : (immSOf w).toInt = w.toInt / 2 ^ 25 * 32 + (w.toNat / 2 ^ 7 % 32 : Nat) := by
  have happ : (immSOf w).toInt = 2 ^ 5 * (w.extractLsb' 25 7).toInt + (w.extractLsb' 7 5).toNat :=
    toInt_append_of_ne_zero (by decide) _ _
  rw [happ, toInt_extractLsb'_high (n := 7) (k := 25) (by decide) w, BitVec.extractLsb'_toNat, Nat.shiftRight_eq_div_pow]
  omega

/-- The value of imm_B's slices, the top one signed. -/
theorem immBOf_toInt_slices (w : Word) :
    (immBOf w).toInt =
      2 * (w.extractLsb' 31 1 ++ w.extractLsb' 7 1 ++ w.extractLsb' 25 6 ++ w.extractLsb' 8 4).toInt :=
  BitVec.toInt_append_zero (n := 12) (m := 1)

/-- The value of imm_J's slices, the top one signed. -/
theorem immJOf_toInt_slices (w : Word) :
    (immJOf w).toInt =
      2 * (w.extractLsb' 31 1 ++ w.extractLsb' 12 8 ++ w.extractLsb' 20 1 ++ w.extractLsb' 21 10).toInt :=
  BitVec.toInt_append_zero (n := 20) (m := 1)

/-- The sign bit of a word, read as signed. -/
theorem toInt_signBit (w : Word) : (w.extractLsb' 31 1).toInt = w.toInt / 2 ^ 31 :=
  toInt_extractLsb'_high (n := 1) (k := 31) (by decide) w

theorem immBOf_toInt (w : Word) :
    (immBOf w).toInt =
      w.toInt / 2 ^ 31 * 4096 +
        (w.toNat / 2 ^ 7 % 2 * 2048 + w.toNat / 2 ^ 25 % 64 * 32 + w.toNat / 2 ^ 8 % 16 * 2 : Nat) := by
  rw [immBOf_toInt_slices, toInt_append_of_ne_zero (by decide), toInt_append_of_ne_zero (by decide),
    toInt_append_of_ne_zero (by decide), toInt_signBit]
  simp only [BitVec.extractLsb'_toNat, Nat.shiftRight_eq_div_pow]
  omega

theorem immJOf_toInt (w : Word) :
    (immJOf w).toInt =
      w.toInt / 2 ^ 31 * 1048576 +
        (w.toNat / 2 ^ 12 % 256 * 4096 + w.toNat / 2 ^ 20 % 2 * 2048 + w.toNat / 2 ^ 21 % 1024 * 2 : Nat) := by
  rw [immJOf_toInt_slices, toInt_append_of_ne_zero (by decide), toInt_append_of_ne_zero (by decide),
    toInt_append_of_ne_zero (by decide), toInt_signBit]
  simp only [BitVec.extractLsb'_toNat, Nat.shiftRight_eq_div_pow]
  omega

theorem imm20Of_toNat (w : Word) : (imm20Of w).toNat = w.toNat / 4096 := by
  have := w.isLt
  simp only [imm20Of, BitVec.extractLsb'_toNat, Nat.shiftRight_eq_div_pow]
  omega

/-! ### What the decoder reads encodes to the word it read -/

/-- A decode result of `w` that names an instruction names one that encodes to `w`, unless its class ignores fields (R77, R78). -/
def ReencodesTo (w : Word) (d : Decoded) : Prop :=
  ∀ i, d = .instr i → i = .ecall ∨ i = .ebreak ∨ i = .fence ∨ encode i = w

theorem ReencodesTo.reserved {w : Word} : ReencodesTo w .reserved := fun _ h => nomatch h

theorem ReencodesTo.unknown {w : Word} : ReencodesTo w .unknown := fun _ h => nomatch h

theorem ReencodesTo.instr {w : Word} {i : Instr} (h : encode i = w) : ReencodesTo w (.instr i) := by
  rintro _ ⟨⟩
  exact .inr (.inr (.inr h))

/-- A property of each entry of a line of R75, where funct3 selects it, is one of the line's answer. -/
theorem byFunct3_induction {motive : Decoded → Prop} {w : Word} {d0 d1 d2 d3 d4 d5 d6 d7 : Decoded}
    (h0 : funct3Of w = 0#3 → motive d0) (h1 : funct3Of w = 1#3 → motive d1) (h2 : funct3Of w = 2#3 → motive d2)
    (h3 : funct3Of w = 3#3 → motive d3) (h4 : funct3Of w = 4#3 → motive d4) (h5 : funct3Of w = 5#3 → motive d5)
    (h6 : funct3Of w = 6#3 → motive d6) (h7 : funct3Of w = 7#3 → motive d7) :
    motive (byFunct3 w d0 d1 d2 d3 d4 d5 d6 d7) := by
  rcases byFunct3_cases w d0 d1 d2 d3 d4 d5 d6 d7 with
    ⟨hf, h⟩ | ⟨hf, h⟩ | ⟨hf, h⟩ | ⟨hf, h⟩ | ⟨hf, h⟩ | ⟨hf, h⟩ | ⟨hf, h⟩ | ⟨hf, h⟩ <;> rw [h]
  exacts [h0 hf, h1 hf, h2 hf, h3 hf, h4 hf, h5 hf, h6 hf, h7 hf]

/-- A property of both entries of R76, where funct7 selects them, and of `reserved` is one of the answer. -/
theorem byFunct7_induction {motive : Decoded → Prop} {w : Word} {d0 d1 : Decoded} (hr : motive .reserved)
    (h0 : funct7Of w = 0#7 → motive d0) (h1 : funct7Of w = funct7Alt → motive d1) : motive (byFunct7 w d0 d1) := by
  rcases byFunct7_cases w d0 d1 with ⟨hf, h⟩ | ⟨hf, h⟩ | h <;> rw [h]
  exacts [h0 hf, h1 hf, hr]

section
variable {w : Word} {op : BitVec 7} (hop : opcodeOf w = op)
include hop

theorem encR_fields_of {f3 : BitVec 3} {f7 : BitVec 7} (h3 : funct3Of w = f3) (h7 : funct7Of w = f7) :
    encR f7 (rs2Of w) (rs1Of w) f3 (rdOf w) op = w := hop ▸ h3 ▸ h7 ▸ encR_fields w

theorem encI_fields_of {f3 : BitVec 3} (h3 : funct3Of w = f3) : encI (immIOf w) (rs1Of w) f3 (rdOf w) op = w :=
  hop ▸ h3 ▸ encI_fields w

theorem encS_fields_of {f3 : BitVec 3} (h3 : funct3Of w = f3) : encS (immSOf w) (rs2Of w) (rs1Of w) f3 op = w :=
  hop ▸ h3 ▸ encS_fields w

theorem encB_fields_of {f3 : BitVec 3} (h3 : funct3Of w = f3) : encB (immBOf w) (rs2Of w) (rs1Of w) f3 op = w :=
  hop ▸ h3 ▸ encB_fields w

theorem encU_fields_of : encU (imm20Of w) (rdOf w) op = w := hop ▸ encU_fields w

theorem encJ_fields_of : encJ (immJOf w) (rdOf w) op = w := hop ▸ encJ_fields w

end

theorem decodeBranch_reencodes {w : Word} (hop : opcodeOf w = opBranch) : ReencodesTo w (decodeBranch w) := by
  refine byFunct3_induction ?_ ?_ (fun _ => .reserved) (fun _ => .reserved) ?_ ?_ ?_ ?_
  all_goals exact fun h3 => .instr (encB_fields_of hop h3)

theorem decodeLoad_reencodes {w : Word} (hop : opcodeOf w = opLoad) : ReencodesTo w (decodeLoad w) := by
  refine byFunct3_induction ?_ ?_ ?_ (fun _ => .reserved) ?_ ?_ (fun _ => .reserved) (fun _ => .reserved)
  all_goals exact fun h3 => .instr (encI_fields_of hop h3)

theorem decodeStore_reencodes {w : Word} (hop : opcodeOf w = opStore) : ReencodesTo w (decodeStore w) := by
  refine byFunct3_induction ?_ ?_ ?_ (fun _ => .reserved) (fun _ => .reserved) (fun _ => .reserved) (fun _ => .reserved)
    (fun _ => .reserved)
  all_goals exact fun h3 => .instr (encS_fields_of hop h3)

theorem decodeOpImm_reencodes {w : Word} (hop : opcodeOf w = opOpImm) : ReencodesTo w (decodeOpImm w) := by
  have shift {f3 : BitVec 3} {f7 : BitVec 7} (h3 : funct3Of w = f3) (h7 : funct7Of w = f7) :
      encR f7 (shamtOf w) (rs1Of w) f3 (rdOf w) opOpImm = w := encR_fields_of hop h3 h7
  refine byFunct3_induction ?_
    (fun h3 => byFunct7_induction .reserved (fun h7 => .instr (shift h3 h7)) fun _ => .reserved) ?_ ?_ ?_
    (fun h3 => byFunct7_induction .reserved (fun h7 => .instr (shift h3 h7)) fun h7 => .instr (shift h3 h7)) ?_ ?_
  all_goals exact fun h3 => .instr (encI_fields_of hop h3)

theorem decodeOp_reencodes {w : Word} (hop : opcodeOf w = opOp) : ReencodesTo w (decodeOp w) := by
  refine byFunct3_induction ?_ ?_ ?_ ?_ ?_ ?_ ?_ ?_
  all_goals refine fun h3 => byFunct7_induction .reserved (fun h7 => .instr (encR_fields_of hop h3 h7)) fun h7 => ?_
  exacts [.instr (encR_fields_of hop h3 h7), .reserved, .reserved, .reserved, .reserved, .instr (encR_fields_of hop h3 h7),
    .reserved, .reserved]

theorem decodeSystem_reencodes (w : Word) : ReencodesTo w (decodeSystem w) := by
  refine iteInduction (fun _ => ?_) fun _ => ?_ <;> rintro _ ⟨⟩
  exacts [.inl rfl, .inr (.inl rfl)]

/-- An instruction the decoder reads encodes to the word it was read from, ECALL, EBREAK and FENCE apart, by the opcode (R74). -/
theorem decode_reencodes (w : Word) : ReencodesTo w (decode w) := by
  refine iteInduction (fun lui => .instr (encU_fields_of lui)) fun _ => ?_
  refine iteInduction (fun auipc => .instr (encU_fields_of auipc)) fun _ => ?_
  refine iteInduction (fun jal => .instr (encJ_fields_of jal)) fun _ => ?_
  refine iteInduction (fun jalr => iteInduction (fun h3 => .instr (encI_fields_of jalr h3)) fun _ => .reserved) fun _ => ?_
  refine iteInduction decodeBranch_reencodes fun _ => ?_
  refine iteInduction decodeLoad_reencodes fun _ => ?_
  refine iteInduction decodeStore_reencodes fun _ => ?_
  refine iteInduction decodeOpImm_reencodes fun _ => ?_
  refine iteInduction decodeOp_reencodes fun _ => ?_
  refine iteInduction (fun _ => decodeSystem_reencodes w) fun _ => ?_
  refine iteInduction (fun _ => ?_) fun _ => .unknown
  rintro _ ⟨⟩
  exact .inr (.inr (.inl rfl))

/-- The instructions of R68 that take imm_I, with these operands. -/
def immIInstrs (rd rs1 : RegIdx) (imm : BitVec 12) : List Instr :=
  [.jalr rd rs1 imm, .lb rd rs1 imm, .lh rd rs1 imm, .lw rd rs1 imm, .lbu rd rs1 imm, .lhu rd rs1 imm, .addi rd rs1 imm,
    .slti rd rs1 imm, .sltiu rd rs1 imm, .xori rd rs1 imm, .ori rd rs1 imm, .andi rd rs1 imm]

/-- An instruction of R68 encodes its immediate in the I layout. -/
theorem immIOf_encode_of_mem (rd rs1 : RegIdx) (imm : BitVec 12) : ∀ i ∈ immIInstrs rd rs1 imm, immIOf (encode i) = imm := by
  simp [immIInstrs, encode]

/-- R68: the immediate of an instruction that takes imm_I is imm_I of its word. -/
theorem imm_eq_immIOf_of_decode {w : Word} {rd rs1 : RegIdx} {imm : BitVec 12} {i : Instr}
    (hi : i ∈ immIInstrs rd rs1 imm) (h : decode w = .instr i) : imm = immIOf w := by
  rcases decode_reencodes w i h with rfl | rfl | rfl | henc
  · simp [immIInstrs] at hi
  · simp [immIInstrs] at hi
  · simp [immIInstrs] at hi
  · rw [← henc, immIOf_encode_of_mem rd rs1 imm i hi]

open Machine in
/-- Settles O35: each immediate is its slices put together, with the top slice signed; the ranges are those of the field's width,
and a decoded instruction encodes to the word it was read from. -/
theorem immediatesHaveTheirIntegerValues : Obligations.ImmediatesHaveTheirIntegerValues := by
  intro w
  have range12 (imm : BitVec 12) : -2048 ≤ imm.toInt ∧ imm.toInt ≤ 2047 := ⟨imm.le_toInt, Int.le_of_lt_add_one imm.toInt_lt⟩
  have evenB : (immBOf w).toInt % 2 = 0 := by rw [immBOf_toInt_slices, Int.mul_emod_right]
  have evenJ : (immJOf w).toInt % 2 = 0 := by rw [immJOf_toInt_slices, Int.mul_emod_right]
  have hiB : (immBOf w).toInt < 4096 := (immBOf w).toInt_lt
  have hiJ : (immJOf w).toInt < 1048576 := (immJOf w).toInt_lt
  rw [sext12_toInt, sext12_toInt, sext13_toInt, sext21_toInt, immU_toNat, imm20Of_toNat]
  exact ⟨immIOf_toInt w, (range12 _).1, (range12 _).2, fun _ _ _ _ hi h => imm_eq_immIOf_of_decode hi h,
    immSOf_toInt w, (range12 _).1, (range12 _).2,
    immBOf_toInt w, (immBOf w).le_toInt, by omega, evenB, rfl,
    immJOf_toInt w, (immJOf w).le_toInt, by omega, evenJ⟩

end Sys2Proof
end

section
/-! SUPPORT. Family 41_upper_immediate: LUI (O1) and AUIPC (O2). -/

namespace Sys2Proof.Machine

/-- R101: the sum AUIPC writes, as a number. -/
theorem add_immU_toNat (a : Word) (imm20 : BitVec 20) :
    (a + immU imm20).toNat = (a.toNat + imm20.toNat * 4096) % 2 ^ 32 := by
  rw [BitVec.toNat_add, immU_toNat]

/-- Settles O1: LUI is a register result (`writesRegister_of`) whose value is imm_U. -/
theorem luiWritesUpperImmediate : Obligations.LuiWritesUpperImmediate := fun _ _ imm20 =>
  ⟨immU imm20, immU_toNat imm20, writesRegister_of rfl⟩

/-- Settles O2: AUIPC is a register result (`writesRegister_of`) whose value is the sum of its own address and imm_U. -/
theorem auipcAddsToItsOwnAddress : Obligations.AuipcAddsToItsOwnAddress := fun s _ imm20 =>
  ⟨s.pc + immU imm20, add_immU_toNat s.pc imm20, writesRegister_of rfl⟩

end Sys2Proof.Machine
end

section
/-! SUPPORT. Family 42_jumps: JAL (O3). -/

namespace Sys2Proof.Machine

/-- R105: the target of JAL, as an integer. -/
theorem add_sext21_int (a : Word) (offset : BitVec 21) :
    ((a + sext21 offset).toNat : Int) = (a.toNat + offset.toInt) % 2 ^ 32 :=
  toNat_add_signExtend a offset (by decide)

/-- Settles O3: JAL is a link and jump (`linksAndJumps_of`) to the sum of its own address and the sign-extended offset. -/
theorem jalLinksAndJumpsRelative : Obligations.JalLinksAndJumpsRelative := fun s _ offset =>
  ⟨s.pc + 4#32, s.pc + sext21 offset, BitVec.toNat_add s.pc 4#32, add_sext21_int s.pc offset, linksAndJumps_of rfl⟩

end Sys2Proof.Machine
end

section
/-! SUPPORT. Family 43_branches: BEQ and BNE (O5), BLT and BGE (O6), BLTU and BGEU (O7), all by the one pattern of R110. -/

namespace Sys2Proof.Machine

/-! ### The comparisons as integers (R11) -/

theorem ltSigned_iff (a b : Word) : ltSigned a b = true ↔ a.toInt < b.toInt := decide_eq_true_iff

theorem not_ltSigned_iff (a b : Word) : (!ltSigned a b) = true ↔ b.toInt ≤ a.toInt := by
  rw [Bool.not_eq_true', ← Bool.not_eq_true, ltSigned_iff, Int.not_lt]

theorem ltUnsigned_iff (a b : Word) : ltUnsigned a b = true ↔ a.toNat < b.toNat := decide_eq_true_iff

theorem not_ltUnsigned_iff (a b : Word) : (!ltUnsigned a b) = true ↔ b.toNat ≤ a.toNat := by
  rw [Bool.not_eq_true', ← Bool.not_eq_true, ltUnsigned_iff, Nat.not_lt]

/-! ### The branch pattern (R110) -/

/-- R110: the target of a taken branch, as an integer. -/
theorem add_sext13_int (a : Word) (offset : BitVec 13) :
    ((a + sext13 offset).toNat : Int) = (a.toNat + offset.toInt) % 2 ^ 32 :=
  toNat_add_signExtend a offset (by decide)

/-- A branch whose test decides `P` only moves pc: to its target under `P`, to `cur + 4` otherwise. -/
theorem onlyMovesPc_of_branchIf {i : Instr} {s : State} {taken : Bool} {offset : BitVec 13} {P : Prop} [Decidable P]
    (h : exec i s = .next (s.branchIf taken offset)) (hP : taken = true ↔ P) :
    OnlyMovesPc i s (if P then s.pc + sext13 offset else s.pc + 4#32) := by
  have hpc : (if taken then s.pc + sext13 offset else s.pc + 4#32) = if P then s.pc + sext13 offset else s.pc + 4#32 :=
    if_congr hP rfl rfl
  rw [← hpc]
  exact onlyMovesPc_of h

/-- Settles O5: BEQ and BNE are branches (`onlyMovesPc_of_branchIf`) on equality and on its negation. -/
theorem beqBneBranchOnEquality : Obligations.BeqBneBranchOnEquality := by
  intro s rs1 rs2 offset
  refine ⟨s.pc + sext13 offset, add_sext13_int s.pc offset, onlyMovesPc_of_branchIf rfl decide_eq_true_iff, ?_⟩
  rw [← ite_not]
  exact onlyMovesPc_of_branchIf rfl decide_eq_true_iff

/-- Settles O6: BLT and BGE are branches (`onlyMovesPc_of_branchIf`) on the signed order and on its negation. -/
theorem bltBgeBranchOnSignedOrder : Obligations.BltBgeBranchOnSignedOrder := fun s _ _ offset =>
  ⟨s.pc + sext13 offset, add_sext13_int s.pc offset,
    onlyMovesPc_of_branchIf rfl (ltSigned_iff _ _), onlyMovesPc_of_branchIf rfl (not_ltSigned_iff _ _)⟩

/-- Settles O7: BLTU and BGEU are branches (`onlyMovesPc_of_branchIf`) on the unsigned order and on its negation. -/
theorem bltuBgeuBranchOnUnsignedOrder : Obligations.BltuBgeuBranchOnUnsignedOrder := fun s _ _ offset =>
  ⟨s.pc + sext13 offset, add_sext13_int s.pc offset,
    onlyMovesPc_of_branchIf rfl (ltUnsigned_iff _ _), onlyMovesPc_of_branchIf rfl (not_ltUnsigned_iff _ _)⟩

end Sys2Proof.Machine
end

section
/-! SUPPORT. Family 45_op_imm: ADDI (O13), and XORI, ORI and ANDI (O15). -/

namespace Sys2Proof.Machine

/-- Settles O13: ADDI is a register result (`writesRegister_of`) whose value is the sum with the sign-extended immediate, as an
integer (`toNat_add_signExtend`). -/
theorem addiAddsSignedImmediate : Obligations.AddiAddsSignedImmediate := fun s _ rs1 imm =>
  ⟨s.getReg rs1 + sext12 imm, toNat_add_signExtend _ imm (by decide), writesRegister_of rfl⟩

/-- Settles O15: XORI, ORI and ANDI are register results (`writesRegister_of`) whose values take bit `k` from bit `k` of `sext_12`
(`sext12_getLsbD`). -/
theorem bitwiseImmediatesUseSignExtension : Obligations.BitwiseImmediatesUseSignExtension := by
  intro s rd rs1 imm
  refine ⟨s.getReg rs1 ^^^ sext12 imm, s.getReg rs1 ||| sext12 imm, s.getReg rs1 &&& sext12 imm,
    fun k hk => ?xor, fun k hk => ?or, fun k hk => ?and,
    writesRegister_of rfl, writesRegister_of rfl, writesRegister_of rfl⟩
  case xor => rw [BitVec.getLsbD_xor, sext12_getLsbD imm k hk]
  case or => rw [BitVec.getLsbD_or, sext12_getLsbD imm k hk]
  case and => rw [BitVec.getLsbD_and, sext12_getLsbD imm k hk]

end Sys2Proof.Machine
end

section
/-! SUPPORT. Family 46_op: ADD and SUB (O17), XOR, OR and AND (O19), SLL, SRL and SRA (O20). -/

namespace Sys2Proof.Machine

/-! ### The values as integers (R12, R13) -/

/-- R152: a difference modulo 2^32, as an integer. -/
theorem toNat_sub_int (a b : Word) : ((a - b).toNat : Int) = (a.toNat - b.toNat : Int) % 2 ^ 32 := by
  have hb := b.isLt
  rw [BitVec.toNat_sub]
  omega

/-- R153: the shift amount of SLL is the low five bits, and the value is multiplied modulo 2^32. -/
theorem shiftLeft_shiftAmount_toNat (a b : Word) :
    (a <<< (shiftAmount b).toNat).toNat = a.toNat * 2 ^ (b.toNat % 32) % 2 ^ 32 := by
  rw [BitVec.toNat_shiftLeft, Nat.shiftLeft_eq, shiftAmount_toNat]

/-- R157: the shift amount of SRL is the low five bits, and the unsigned value is divided. -/
theorem ushiftRight_shiftAmount_toNat (a b : Word) :
    (a >>> (shiftAmount b).toNat).toNat = a.toNat / 2 ^ (b.toNat % 32) := by
  rw [BitVec.toNat_ushiftRight, Nat.shiftRight_eq_div_pow, shiftAmount_toNat]

/-- R158: the shift amount of SRA is the low five bits, and the signed value is divided, rounding toward minus infinity. -/
theorem sshiftRight_shiftAmount_toInt (a b : Word) :
    (a.sshiftRight (shiftAmount b).toNat).toInt = a.toInt / 2 ^ (b.toNat % 32) := by
  rw [BitVec.toInt_sshiftRight, Int.shiftRight_eq_div_pow, shiftAmount_toNat, Nat.cast_pow, Nat.cast_ofNat]

/-! ### The obligations -/

/-- Settles O17: ADD and SUB are register results (`writesRegister_of`) whose values are the sum and the difference modulo 2^32
(`toNat_sub_int`). -/
theorem addSubWrapModulo : Obligations.AddSubWrapModulo := fun s _ rs1 rs2 =>
  ⟨s.getReg rs1 + s.getReg rs2, s.getReg rs1 - s.getReg rs2, BitVec.toNat_add _ _, toNat_sub_int _ _,
    writesRegister_of rfl, writesRegister_of rfl⟩

/-- Settles O19: XOR, OR and AND are register results (`writesRegister_of`) whose values are the operations of words, which work
bit by bit. -/
theorem bitwiseRegisterOperations : Obligations.BitwiseRegisterOperations := fun s _ rs1 rs2 =>
  ⟨s.getReg rs1 ^^^ s.getReg rs2, s.getReg rs1 ||| s.getReg rs2, s.getReg rs1 &&& s.getReg rs2,
    fun _ _ => BitVec.getLsbD_xor, fun _ _ => BitVec.getLsbD_or, fun _ _ => BitVec.getLsbD_and,
    writesRegister_of rfl, writesRegister_of rfl, writesRegister_of rfl⟩

/-- Settles O20: SLL, SRL and SRA are register results (`writesRegister_of`) whose values scale by two to the power of the low
five bits of x[rs2]. -/
theorem registerShiftsUseLowFiveBits : Obligations.RegisterShiftsUseLowFiveBits := fun s _ rs1 rs2 =>
  ⟨s.getReg rs1 <<< (shiftAmount (s.getReg rs2)).toNat, s.getReg rs1 >>> (shiftAmount (s.getReg rs2)).toNat,
    (s.getReg rs1).sshiftRight (shiftAmount (s.getReg rs2)).toNat,
    shiftLeft_shiftAmount_toNat _ _, ushiftRight_shiftAmount_toNat _ _, sshiftRight_shiftAmount_toInt _ _,
    writesRegister_of rfl, writesRegister_of rfl, writesRegister_of rfl⟩

end Sys2Proof.Machine
end

section
/-! SUPPORT. Family 48_syscalls: the calls 0 (O21) and 100 (O22), and the numbers that name no call (O27). -/

namespace Sys2Proof.Machine

/-! ### The choice of R176, by the call number -/

theorem State.dispatchCall_zero (s : State) (cur arg : Word) : s.dispatchCall cur 0#32 arg = s.callExit := rfl

theorem State.dispatchCall_hundred (s : State) (cur arg : Word) :
    s.dispatchCall cur 100#32 arg = s.emitDiag (.printInt arg.toInt) := rfl

/-- R182: outside the five served numbers, only the last case of `dispatchCall_cases` is left. -/
theorem State.dispatchCall_unknown (s : State) (cur arg : Word) {n : Word}
    (hn : n ∉ [0#32, 100#32, 101#32, 103#32, 200#32]) : s.dispatchCall cur n arg = s.emitDiag (.unknownCall n) := by
  rcases s.dispatchCall_cases cur n arg with
    ⟨rfl, -⟩ | ⟨rfl, -⟩ | ⟨rfl, -⟩ | ⟨rfl, -⟩ | ⟨rfl, -⟩ | ⟨-, hunknown⟩
  case inr.inr.inr.inr.inr => exact hunknown
  all_goals exact absurd (by decide) hn

/-! ### What an ECALL does with the call's answer -/

/-- R165, R176: the call runs with pc already at `cur + 4`, and its answer `u` is the ECALL's, with no call pending. -/
theorem exec_ecall_of_dispatchCall {s u : State}
    (h : (s.setEcallPending true).advance.dispatchCall s.pc (s.getReg regA0) (s.getReg regA1) = u) :
    exec .ecall s = .next (u.setEcallPending false) := h ▸ rfl

/-- A call that answers with one Diag event is an ECALL that only emits it. -/
theorem callOnlyEmits_of {s : State} {e : DiagEvent}
    (h : (s.setEcallPending true).advance.dispatchCall s.pc (s.getReg regA0) (s.getReg regA1) =
      (s.setEcallPending true).advance.emitDiag e) : CallOnlyEmits s e :=
  ⟨_, exec_ecall_of_dispatchCall h, rfl, rfl, rfl, rfl, fun _ => rfl, fun _ => rfl, rfl, rfl, rfl, rfl,
    ⟨rfl, rfl, rfl, rfl, rfl, rfl, rfl, rfl⟩⟩

/-! ### The obligations -/

/-- Settles O21: the answer of call 0 is `callExit`, which sets the halt and emits the one event. -/
theorem ecallZeroExits : Obligations.EcallZeroExits := by
  intro s (hn : s.getReg regA0 = 0#32)
  have hexit : exec .ecall s = .next ((s.setEcallPending true).advance.callExit.setEcallPending false) :=
    exec_ecall_of_dispatchCall (hn ▸ State.dispatchCall_zero _ _ _)
  exact ⟨_, hexit, rfl, rfl, rfl, rfl, rfl, rfl, rfl, rfl, fun _ => rfl, fun _ => rfl,
    ⟨rfl, rfl, rfl, rfl, rfl, rfl, rfl, rfl⟩⟩

/-- Settles O22: call 100 only emits (`callOnlyEmits_of`), and what it emits is the signed value of a1. -/
theorem ecallHundredPrintsSignedInteger : Obligations.EcallHundredPrintsSignedInteger := by
  intro s (hn : s.getReg regA0 = 100#32)
  apply callOnlyEmits_of
  rw [hn]
  exact State.dispatchCall_hundred _ _ _

/-- Settles O27: a number that names no call only emits (`callOnlyEmits_of`), and what it emits is the number. -/
theorem ecallUnknownNumberOnlyReports : Obligations.EcallUnknownNumberOnlyReports := fun _ hn =>
  callOnlyEmits_of (State.dispatchCall_unknown _ _ _ hn)

end Sys2Proof.Machine
end

section
/-! SUPPORT. Family 60_exceptions: the iteration that executes nothing, and the Halted engine's (O43). -/

namespace Sys2Proof.Machine

/-! ### An iteration that executes nothing (R196) -/

/-- An iteration with no reset request that may not step: the peripherals and the signals, and no more. -/
theorem step_of_not_mayStep {s : State} (hr : resetBit s.buttonSample = false)
    (hm : (s.poll.applySignals s.buttonSample).mayStep = false) :
    step s = .next (s.poll.applySignals s.buttonSample) := by
  unfold step State.iterate
  rw [hr, hm]
  rfl

/-- The count of free masks goes up exactly when no mask is listed (log 9). -/
theorem State.poll_freeButtons_eq_add (s : State) :
    s.poll.freeButtons = s.freeButtons + (if s.buttons = [] then 1 else 0) := by
  cases hb : s.buttons <;> simp [hb]

/-! ### Halted -/

/-- Halted, no step is made, whatever `paused` and `step_req` hold (R200). -/
theorem State.mayStep_of_exited {s : State} (h : s.exited = true) : s.mayStep = false := by
  simp [State.mayStep, h]

/-- Halted, the toggle and the step request have no effect (R198 to R200). -/
theorem State.applySignals_of_exited {s : State} (h : s.exited = true) (b : Word) : s.applySignals b = s := by
  have htoggle : (s.paused ^^ (toggleBit b && !s.exited)) = s.paused := by simp [h]
  have hstep : (s.stepReq || (stepBit b && !s.exited)) = s.stepReq := by simp [h]
  rw [State.applySignals, htoggle, hstep]

/-- Halted and with no reset request, all an iteration does is to poll the peripherals (R200). -/
theorem step_of_exited {s : State} (h : s.exited = true) (hr : resetBit s.buttonSample = false) :
    step s = .next s.poll := by
  have hexited : s.poll.exited = true := s.poll_exited.trans h
  have hsignals : s.poll.applySignals s.buttonSample = s.poll := State.applySignals_of_exited hexited _
  have hm : (s.poll.applySignals s.buttonSample).mayStep = false := hsignals ▸ State.mayStep_of_exited hexited
  rw [step_of_not_mayStep hr hm, hsignals]

/-! ### The obligation -/

/-- Settles O43: the iteration's whole effect is the poll (`step_of_exited`), which takes the mask and refreshes the LED. -/
theorem haltedExecutesNothing : Obligations.HaltedExecutesNothing := fun s h hr =>
  ⟨s.poll, step_of_exited h hr, s.poll_getReg, s.poll_byteAt, s.poll_pc, ⟨rfl, rfl, rfl, rfl, rfl⟩, ⟨rfl, rfl⟩,
    s.poll_buttons, s.poll_led, s.poll_images, s.poll_freeButtons_eq_add, s.poll_resetCount, s.poll_params⟩

end Sys2Proof.Machine
end

section
/-! SUPPORT. Family 30_encoding, the decoder: decode of encode (O32), encode of decode (O33), the rows of the opcode table
(O36), the unknown and the reserved words (O37), and the worked examples (O38). -/

namespace Sys2Proof

/-! ### Which line of the table an opcode selects (R74) -/

section
variable {w : Word}

theorem decode_of_opLui (h : opcodeOf w = opLui) : decode w = .instr (.lui (rdOf w) (imm20Of w)) := if_pos h

theorem decode_of_opAuipc (h : opcodeOf w = opAuipc) : decode w = .instr (.auipc (rdOf w) (imm20Of w)) := by
  simp [decode, h, opLui, opAuipc]

theorem decode_of_opJal (h : opcodeOf w = opJal) : decode w = .instr (.jal (rdOf w) (immJOf w)) := by
  simp [decode, h, opLui, opAuipc, opJal]

theorem decode_of_opJalr (h : opcodeOf w = opJalr) :
    decode w = if funct3Of w = 0#3 then .instr (.jalr (rdOf w) (rs1Of w) (immIOf w)) else .reserved := by
  simp [decode, h, opLui, opAuipc, opJal, opJalr]

theorem decode_of_opBranch (h : opcodeOf w = opBranch) : decode w = decodeBranch w := by
  simp [decode, h, opLui, opAuipc, opJal, opJalr, opBranch]

theorem decode_of_opLoad (h : opcodeOf w = opLoad) : decode w = decodeLoad w := by
  simp [decode, h, opLui, opAuipc, opJal, opJalr, opBranch, opLoad]

theorem decode_of_opStore (h : opcodeOf w = opStore) : decode w = decodeStore w := by
  simp [decode, h, opLui, opAuipc, opJal, opJalr, opBranch, opLoad, opStore]

theorem decode_of_opOpImm (h : opcodeOf w = opOpImm) : decode w = decodeOpImm w := by
  simp [decode, h, opLui, opAuipc, opJal, opJalr, opBranch, opLoad, opStore, opOpImm]

theorem decode_of_opOp (h : opcodeOf w = opOp) : decode w = decodeOp w := by
  simp [decode, h, opLui, opAuipc, opJal, opJalr, opBranch, opLoad, opStore, opOpImm, opOp]

theorem decode_of_opSystem (h : opcodeOf w = opSystem) : decode w = decodeSystem w := by
  simp [decode, h, opLui, opAuipc, opJal, opJalr, opBranch, opLoad, opStore, opOpImm, opOp, opSystem]

theorem decode_of_opMiscMem (h : opcodeOf w = opMiscMem) : decode w = .instr .fence := by
  simp [decode, h, opLui, opAuipc, opJal, opJalr, opBranch, opLoad, opStore, opOpImm, opOp, opSystem, opMiscMem]

end

/-! ### Decoding what the encoder writes -/

/-- Settles O32: the opcode of an encoded word selects its class's line (R74), funct3 and funct7 its row (R75, R76), and each
operand comes back whole from its field; an even offset does too (`immBOf_encB`, `immJOf_encJ`). -/
theorem decodeOfEncodeIsTheInstruction : Obligations.DecodeOfEncodeIsTheInstruction := by
  intro i hwf
  cases i with
  | lui => simp [encode, decode_of_opLui]
  | auipc => simp [encode, decode_of_opAuipc]
  | jal _ offset =>
    have even : offset.getLsbD 0 = false := by simpa [Instr.wellFormed, jalOffsetOk] using hwf
    rw [encode, decode_of_opJal (opcodeOf_encJ _ _ _), rdOf_encJ, immJOf_encJ offset even]
  | jalr => simp [encode, decode_of_opJalr]
  | beq _ _ offset | bne _ _ offset | blt _ _ offset | bge _ _ offset | bltu _ _ offset | bgeu _ _ offset =>
    have even : offset.getLsbD 0 = false := by simpa [Instr.wellFormed, branchOffsetOk] using hwf
    simp [encode, decode_of_opBranch, decodeBranch, byFunct3, immBOf_encB offset even]
  | lb | lh | lw | lbu | lhu => simp [encode, decode_of_opLoad, decodeLoad, byFunct3]
  | sb | sh | sw => simp [encode, decode_of_opStore, decodeStore, byFunct3]
  | addi | slti | sltiu | xori | ori | andi => simp [encode, decode_of_opOpImm, decodeOpImm, byFunct3]
  | slli | srli | srai => simp [encode, decode_of_opOpImm, decodeOpImm, byFunct3, byFunct7, funct7Alt]
  | add | sub | sll | slt | sltu | xor | srl | sra | or | and =>
    simp [encode, decode_of_opOp, decodeOp, byFunct3, byFunct7, funct7Alt]
  | ecall | ebreak | fence => decide

/-! ### Encoding what the decoder reads -/

/-- Every branch the decoder reads has an even offset (R71). -/
theorem wellFormed_of_decodeBranch (w : Word) : ∀ i, decodeBranch w = .instr i → i.wellFormed = true := by
  have even : branchOffsetOk (immBOf w) = true := by rw [branchOffsetOk, immBOf_even]; rfl
  refine byFunct3_induction (motive := fun d => ∀ i, d = .instr i → i.wellFormed = true) ?_ ?_ ?_ ?_ ?_ ?_ ?_ ?_
  all_goals rintro - _ ⟨⟩ <;> exact even

/-- Whatever the decoder reads is well-formed: only JAL and the branches have a check, and their encoding names their class. -/
theorem wellFormed_of_decode {w : Word} {i : Instr} (h : decode w = .instr i) : i.wellFormed = true := by
  rcases decode_reencodes w i h with rfl | rfl | rfl | henc
  case inr.inr.inr =>
    cases i with
    | jal =>
      have hop : opcodeOf w = opJal := by rw [← henc, encode, opcodeOf_encJ]
      rw [decode_of_opJal hop] at h
      cases h
      rw [Instr.wellFormed, jalOffsetOk, immJOf_even]
      rfl
    | beq | bne | blt | bge | bltu | bgeu =>
      have hop : opcodeOf w = opBranch := by rw [← henc, encode, opcodeOf_encB]
      exact wellFormed_of_decodeBranch w _ (decode_of_opBranch hop ▸ h)
    | _ => rfl
  all_goals rfl

/-- Settles O33: every decoded operand is read from its own field (`decode_reencodes`), and every decoded offset is even. -/
theorem encodeOfDecodeIsTheWord : Obligations.EncodeOfDecodeIsTheWord := fun w i h =>
  ⟨wellFormed_of_decode h, decode_reencodes w i h⟩

/-! ### The rows of the opcode table -/

/-- What a row of the opcode table says of a word that matches it. -/
def MatchesDecodeTo (row : Machine.TableRow) : Prop :=
  ∀ w : Word, w &&& row.mask = row.pattern → ∃ i, decode w = .instr i ∧ mnemonicOf i = row.mnemonic

/-- A row with no funct3 fixes the opcode, and for ECALL and EBREAK w[31:20] as well (R77). -/
theorem matchesDecodeTo_byOpcode : ∀ row ∈ Machine.tableRowsByOpcode, MatchesDecodeTo row := by
  intro row hrow w h
  have hmask : opcodeOf row.mask = BitVec.allOnes 7 :=
    (by decide : ∀ row ∈ Machine.tableRowsByOpcode, opcodeOf row.mask = BitVec.allOnes 7) row hrow
  have hop : opcodeOf w = opcodeOf row.pattern := opcodeOf_of_mask h hmask
  simp only [Machine.tableRowsByOpcode, List.mem_cons, List.not_mem_nil, or_false] at hrow
  rcases hrow with rfl | rfl | rfl | ecall | ebreak | rfl
  case inr.inr.inr.inl | inr.inr.inr.inr.inl =>
    subst row
    have himm := immIOf_of_mask h (by decide)
    simp +decide [decode, decodeSystem, mnemonicOf, hop, himm]
  all_goals simp +decide [decode, mnemonicOf, hop]

/-- A row selected by funct3 fixes the opcode and funct3 (R75). -/
theorem matchesDecodeTo_byFunct3 : ∀ row ∈ Machine.tableRowsByFunct3, MatchesDecodeTo row := by
  intro row hrow w h
  obtain ⟨hmaskop, hmask3⟩ : opcodeOf row.mask = BitVec.allOnes 7 ∧ funct3Of row.mask = BitVec.allOnes 3 :=
    (by decide : ∀ row ∈ Machine.tableRowsByFunct3,
      opcodeOf row.mask = BitVec.allOnes 7 ∧ funct3Of row.mask = BitVec.allOnes 3) row hrow
  have hop : opcodeOf w = opcodeOf row.pattern := opcodeOf_of_mask h hmaskop
  have h3 : funct3Of w = funct3Of row.pattern := funct3Of_of_mask h hmask3
  fin_cases hrow
  all_goals
    simp +decide [decode, decodeBranch, decodeLoad, decodeStore, decodeOpImm, byFunct3, mnemonicOf, hop, h3]

/-- A row selected by funct3 and w[31:25] fixes the opcode and both (R75, R76). -/
theorem matchesDecodeTo_byFunct7 : ∀ row ∈ Machine.tableRowsByFunct7, MatchesDecodeTo row := by
  intro row hrow w h
  obtain ⟨hmaskop, hmask3, hmask7⟩ :
      opcodeOf row.mask = BitVec.allOnes 7 ∧ funct3Of row.mask = BitVec.allOnes 3 ∧ funct7Of row.mask = BitVec.allOnes 7 :=
    (by decide : ∀ row ∈ Machine.tableRowsByFunct7, opcodeOf row.mask = BitVec.allOnes 7 ∧
      funct3Of row.mask = BitVec.allOnes 3 ∧ funct7Of row.mask = BitVec.allOnes 7) row hrow
  have hop : opcodeOf w = opcodeOf row.pattern := opcodeOf_of_mask h hmaskop
  have h3 : funct3Of w = funct3Of row.pattern := funct3Of_of_mask h hmask3
  have h7 : funct7Of w = funct7Of row.pattern := funct7Of_of_mask h hmask7
  fin_cases hrow
  all_goals simp +decide [decode, decodeOpImm, decodeOp, byFunct3, byFunct7, mnemonicOf, hop, h3, h7]

/-- Settles O36: a row's mask covers the fields that select it, so a matching word has the row's own values there. -/
theorem opcodeTableRowsDecodeToTheirInstruction : Obligations.OpcodeTableRowsDecodeToTheirInstruction := by
  intro row hrow
  rcases List.mem_append.1 hrow with hrow | h7
  · rcases List.mem_append.1 hrow with hop | h3
    · exact matchesDecodeTo_byOpcode row hop
    · exact matchesDecodeTo_byFunct3 row h3
  · exact matchesDecodeTo_byFunct7 row h7

/-! ### The words that name no instruction (R79, R80) -/

/-- The eleven opcodes of R74, as numbers. -/
def knownOpcodes : List Nat := [0x37, 0x17, 0x6F, 0x67, 0x63, 0x03, 0x23, 0x13, 0x33, 0x73, 0x0F]

theorem opcodeOf_of_known {w : Word} (h : (opcodeOf w).toNat ∈ knownOpcodes) :
    opcodeOf w = opLui ∨ opcodeOf w = opAuipc ∨ opcodeOf w = opJal ∨ opcodeOf w = opJalr ∨ opcodeOf w = opBranch ∨
    opcodeOf w = opLoad ∨ opcodeOf w = opStore ∨ opcodeOf w = opOpImm ∨ opcodeOf w = opOp ∨ opcodeOf w = opSystem ∨
    opcodeOf w = opMiscMem := by
  simpa [knownOpcodes, ← BitVec.toNat_inj, opLui, opAuipc, opJal, opJalr, opBranch, opLoad, opStore, opOpImm, opOp, opSystem,
    opMiscMem] using h

/-- R79: no line of R74 has the opcode. -/
theorem decode_of_not_known {w : Word} (h : (opcodeOf w).toNat ∉ knownOpcodes) : decode w = .unknown := by
  have hne (op : BitVec 7) (hop : op.toNat ∈ knownOpcodes) : opcodeOf w ≠ op := by
    rintro rfl
    exact h hop
  simp [decode, hne opLui (by decide), hne opAuipc (by decide), hne opJal (by decide), hne opJalr (by decide),
    hne opBranch (by decide), hne opLoad (by decide), hne opStore (by decide), hne opOpImm (by decide), hne opOp (by decide),
    hne opSystem (by decide), hne opMiscMem (by decide)]

/-! What each line of R75 and R76 leaves reserved. -/

section
variable (w : Word)

theorem byFunct7_one_eq_reserved_iff (i : Instr) :
    byFunct7 w (.instr i) .reserved = .reserved ↔ (funct7Of w).toNat ≠ 0 := by
  have h0 : (funct7Of w).toNat = 0 ↔ funct7Of w = 0#7 := BitVec.toNat_inj (y := 0#7)
  simp [byFunct7, h0]

theorem byFunct7_two_eq_reserved_iff (i j : Instr) :
    byFunct7 w (.instr i) (.instr j) = .reserved ↔ (funct7Of w).toNat ∉ [0, 32] := by
  have h0 : (funct7Of w).toNat = 0 ↔ funct7Of w = 0#7 := BitVec.toNat_inj (y := 0#7)
  have h32 : (funct7Of w).toNat = 32 ↔ funct7Of w = funct7Alt := BitVec.toNat_inj (y := funct7Alt)
  rw [byFunct7, ite_eq_iff]
  simp [h0, h32]

theorem decodeBranch_eq_reserved_iff : decodeBranch w = .reserved ↔ (funct3Of w).toNat ∈ [2, 3] := by
  rcases funct3_values (funct3Of w) with h | h | h | h | h | h | h | h <;> simp [decodeBranch, byFunct3, h]

theorem decodeLoad_eq_reserved_iff : decodeLoad w = .reserved ↔ (funct3Of w).toNat ∈ [3, 6, 7] := by
  rcases funct3_values (funct3Of w) with h | h | h | h | h | h | h | h <;> simp [decodeLoad, byFunct3, h]

theorem decodeStore_eq_reserved_iff : decodeStore w = .reserved ↔ (funct3Of w).toNat ∈ [3, 4, 5, 6, 7] := by
  rcases funct3_values (funct3Of w) with h | h | h | h | h | h | h | h <;> simp [decodeStore, byFunct3, h]

theorem decodeOpImm_eq_reserved_iff : decodeOpImm w = .reserved ↔
    ((funct3Of w).toNat = 1 ∧ (funct7Of w).toNat ≠ 0) ∨ ((funct3Of w).toNat = 5 ∧ (funct7Of w).toNat ∉ [0, 32]) := by
  rcases funct3_values (funct3Of w) with h | h | h | h | h | h | h | h <;>
    simp [decodeOpImm, byFunct3, byFunct7_one_eq_reserved_iff, byFunct7_two_eq_reserved_iff, h]

theorem decodeOp_eq_reserved_iff : decodeOp w = .reserved ↔
    ((funct3Of w).toNat ∈ [0, 5] ∧ (funct7Of w).toNat ∉ [0, 32]) ∨
    ((funct3Of w).toNat ∉ [0, 5] ∧ (funct7Of w).toNat ≠ 0) := by
  rcases funct3_values (funct3Of w) with h | h | h | h | h | h | h | h <;>
    simp [decodeOp, byFunct3, byFunct7_one_eq_reserved_iff, byFunct7_two_eq_reserved_iff, h]

end

theorem byFunct3_ne_unknown {w : Word} {d0 d1 d2 d3 d4 d5 d6 d7 : Decoded}
    (h : ∀ d ∈ [d0, d1, d2, d3, d4, d5, d6, d7], d ≠ .unknown) : byFunct3 w d0 d1 d2 d3 d4 d5 d6 d7 ≠ .unknown := by
  apply byFunct3_induction (motive := (· ≠ .unknown)) <;> exact fun _ => h _ (by simp)

theorem byFunct7_ne_unknown {w : Word} {d0 d1 : Decoded} (h0 : d0 ≠ .unknown) (h1 : d1 ≠ .unknown) :
    byFunct7 w d0 d1 ≠ .unknown :=
  byFunct7_induction (motive := (· ≠ .unknown)) Decoded.noConfusion (fun _ => h0) fun _ => h1

/-- R79: no known opcode's line answers `unknown`. -/
theorem decode_ne_unknown {w : Word} (h : (opcodeOf w).toNat ∈ knownOpcodes) : decode w ≠ .unknown := by
  rcases opcodeOf_of_known h with h | h | h | h | h | h | h | h | h | h | h
  · simp [decode_of_opLui h]
  · simp [decode_of_opAuipc h]
  · simp [decode_of_opJal h]
  · simp [decode_of_opJalr h, ite_eq_iff]
  · exact decode_of_opBranch h ▸ byFunct3_ne_unknown (by simp)
  · exact decode_of_opLoad h ▸ byFunct3_ne_unknown (by simp)
  · exact decode_of_opStore h ▸ byFunct3_ne_unknown (by simp)
  · exact decode_of_opOpImm h ▸ byFunct3_ne_unknown (by simp [byFunct7_ne_unknown])
  · exact decode_of_opOp h ▸ byFunct3_ne_unknown (by simp [byFunct7_ne_unknown])
  · simp [decode_of_opSystem h, decodeSystem, ite_eq_iff]
  · simp [decode_of_opMiscMem h]

/-- R80: the reserved words, by the opcode's line. -/
theorem decode_eq_reserved_iff (w : Word) : decode w = .reserved ↔
    ((opcodeOf w).toNat = 0x67 ∧ (funct3Of w).toNat ≠ 0) ∨
    ((opcodeOf w).toNat = 0x63 ∧ (funct3Of w).toNat ∈ [2, 3]) ∨
    ((opcodeOf w).toNat = 0x03 ∧ (funct3Of w).toNat ∈ [3, 6, 7]) ∨
    ((opcodeOf w).toNat = 0x23 ∧ (funct3Of w).toNat ∈ [3, 4, 5, 6, 7]) ∨
    ((opcodeOf w).toNat = 0x13 ∧ (funct3Of w).toNat = 1 ∧ (funct7Of w).toNat ≠ 0) ∨
    ((opcodeOf w).toNat = 0x13 ∧ (funct3Of w).toNat = 5 ∧ (funct7Of w).toNat ∉ [0, 32]) ∨
    ((opcodeOf w).toNat = 0x33 ∧ (funct3Of w).toNat ∈ [0, 5] ∧ (funct7Of w).toNat ∉ [0, 32]) ∨
    ((opcodeOf w).toNat = 0x33 ∧ (funct3Of w).toNat ∉ [0, 5] ∧ (funct7Of w).toNat ≠ 0) := by
  by_cases hknown : (opcodeOf w).toNat ∈ knownOpcodes
  · rcases opcodeOf_of_known hknown with h | h | h | h | h | h | h | h | h | h | h
    · simp [decode_of_opLui h, h, opLui]
    · simp [decode_of_opAuipc h, h, opAuipc]
    · simp [decode_of_opJal h, h, opJal]
    · have h0 : (funct3Of w).toNat = 0 ↔ funct3Of w = 0#3 := BitVec.toNat_inj (y := 0#3)
      simp [decode_of_opJalr h, h, opJalr, h0]
    · simp [decode_of_opBranch h, decodeBranch_eq_reserved_iff, h, opBranch]
    · simp [decode_of_opLoad h, decodeLoad_eq_reserved_iff, h, opLoad]
    · simp [decode_of_opStore h, decodeStore_eq_reserved_iff, h, opStore]
    · simp [decode_of_opOpImm h, decodeOpImm_eq_reserved_iff, h, opOpImm]
    · simp [decode_of_opOp h, decodeOp_eq_reserved_iff, h, opOp]
    · simp [decode_of_opSystem h, decodeSystem, h, opSystem, ite_eq_iff]
    · simp [decode_of_opMiscMem h, h, opMiscMem]
  · simp only [decode_of_not_known hknown, reduceCtorEq, false_iff]
    simp only [knownOpcodes, List.mem_cons, not_or] at hknown
    simp [hknown]

/-- Settles O37: the unknown words are those with no line in R74, the reserved ones are read off each line
(`decode_eq_reserved_iff`), and SYSTEM looks at w[31:20] alone. -/
theorem unknownReservedAndSystemWords : Obligations.UnknownReservedAndSystemWords := by
  intro w
  rw [← opcodeOf_toNat, ← funct3Of_toNat, ← funct7Of_toNat, ← immIOf_toNat]
  refine ⟨⟨fun h hknown => decode_ne_unknown hknown h, decode_of_not_known⟩, decode_eq_reserved_iff w, fun h => ?_, fun h => ?_⟩
  · have hop : opcodeOf w = opSystem := BitVec.eq_of_toNat_eq h
    have h0 : (immIOf w).toNat = 0 ↔ immIOf w = 0#12 := BitVec.toNat_inj (y := 0#12)
    simp only [decode_of_opSystem hop, decodeSystem, h0]
    split <;> rfl
  · exact decode_of_opMiscMem (BitVec.eq_of_toNat_eq h)

/-- Settles O38: the decoder evaluated on eight words. -/
theorem workedExampleWordsDecode : Obligations.WorkedExampleWordsDecode := by
  refine ⟨?_, ?_, ?_, ?_, ?_, ?_, ?_, ?_⟩ <;> decide

end Sys2Proof
end

section
/-! SUPPORT. What every instruction and every step leaves alone (`Effect`, `StepEffect`), and the invariant: the state after
reset (O51) and every iteration (O52). -/

namespace Sys2Proof.Machine

/-! ### What every instruction leaves alone -/

section
variable {s t : State} {i : Instr}

theorem Effect.params (h : Effect s i t) : t.params = s.params := by
  cases h <;> simp [State.writeResult, State.jumpLink]

theorem Effect.buttons (h : Effect s i t) : t.buttons = s.buttons := by
  cases h <;> simp [State.writeResult, State.jumpLink]

theorem Effect.freeButtons (h : Effect s i t) : t.freeButtons = s.freeButtons := by
  cases h <;> simp [State.writeResult, State.jumpLink]

/-- Only EBREAK changes `paused` (R166). -/
theorem Effect.paused (h : Effect s i t) : t.paused = s.paused ∨ (i = .ebreak ∧ t.paused = true) := by
  cases h
  case broke => exact .inr ⟨rfl, rfl⟩
  all_goals exact .inl (by simp [State.writeResult, State.jumpLink])

end

/-! ### What a step does (R90) -/

/-- The shapes of what a step leaves, before its trace event. -/
inductive StepEffect (s : State) : State → Prop
  | halted (f : Fatal) : StepEffect s (s.raise f)
  | noOp : StepEffect s s.advance
  | ran {i : Instr} {t : State} (hd : decode s.fetchWord = .instr i) (he : Effect s i t) : StepEffect s t

theorem stepEffect_runReserved (s : State) (w : Word) : StepEffect s (s.runReserved w) := by
  rcases s.runReserved_cases w with ⟨-, h⟩ | ⟨-, h⟩ <;> rw [h]
  exacts [.noOp, .halted _]

/-- Every step answers a next state by one of the shapes, retired. -/
theorem stepEffect_of_engineStep {s t : State} (h : s.engineStep = .next t) :
    ∃ u, StepEffect s u ∧ t = u.retire s.pc s.fetchWord (decode s.fetchWord) := by
  rcases s.engineStep_cases with ⟨f, -, hf⟩ | ⟨-, u, hu, hs⟩
  · cases h.symm.trans hf
    exact ⟨_, .halted f, rfl⟩
  · cases h.symm.trans hs
    refine ⟨u, ?_, rfl⟩
    cases hd : decode s.fetchWord with rw [hd] at hu
    | instr i => exact .ran hd (effect_of_exec hu)
    | unknown => cases hu; exact .noOp
    | reserved => cases hu; exact stepEffect_runReserved s _

/-! ### The invariant -/

/-- Memory after an in-range write stays inside MEM_SIZE. -/
theorem memWrite_inside {s : State} {ea v : Word} {n : Nat} (hm : ∀ c ∈ s.mem, c.1 < s.params.memSize)
    (hr : s.inRange ea n = true) : ∀ c ∈ (s.memWrite ea n v).mem, c.1 < s.params.memSize := by
  intro c hc
  rcases Memory.mem_writeBytes hc with hc | ⟨k, hk, hk'⟩
  · exact hm c hc
  · rw [leBytes_length] at hk
    exact hk' ▸ (s.inRange_iff ea n).1 hr k hk

section
variable {s t : State}

theorem inv_raise (h : s.clearStepReq.Inv) (f : Fatal) : (s.raise f).clearStepReq.Inv where
  paramsLegal := h.paramsLegal
  memCanonical := h.memCanonical
  memInside := h.memInside
  x0Slot := h.x0Slot
  noPendingCall := rfl
  noStepRequest := rfl
  reasonIffExited := by simp

theorem inv_setReg (h : s.clearStepReq.Inv) (r : RegIdx) (v : Word) : (s.setReg r v).clearStepReq.Inv :=
  { h with x0Slot := (writeRegs_slot0 s.regs r v).trans h.x0Slot }

theorem inv_memWrite (h : s.clearStepReq.Inv) {ea : Word} {n : Nat} (hr : s.inRange ea n = true) (v : Word) :
    (s.memWrite ea n v).clearStepReq.Inv :=
  { h with
    memCanonical := Memory.writeBytes_wf h.memCanonical ea (leBytes n v)
    memInside := memWrite_inside h.memInside hr }

/-- The handler leaves no call pending, and what it changes of the halt it changes as R32 has it. -/
theorem inv_syscall (h : s.clearStepReq.Inv) (cur : Word) :
    ((s.setEcallPending true).advance.syscall cur).clearStepReq.Inv where
  paramsLegal := by simpa using h.paramsLegal
  memCanonical := by simpa using h.memCanonical
  memInside := by simpa using h.memInside
  x0Slot := (State.syscall_slot0 _ _).trans h.x0Slot
  noPendingCall := rfl
  noStepRequest := rfl
  reasonIffExited := by
    have hreason := h.reasonIffExited
    rcases (s.setEcallPending true).advance.syscall_halt cur with ⟨-, he, hh, -⟩ | ⟨he, ⟨f, hh⟩, -⟩ | ⟨he, hh, -⟩
    · simp [he, hh]
    · simp [he, hh]
    · simpa [he, hh] using hreason

/-- Every instruction keeps the invariant, the step request apart, which lasts until its step is over (R199, D10). -/
theorem Effect.inv {i : Instr} (he : Effect s i t) (h : s.clearStepReq.Inv) : t.clearStepReq.Inv := by
  cases he with
  | result | link => exact { inv_setReg h _ _ with }
  | branch | broke | fenced => exact { h with }
  | stored _ hr => exact { inv_memWrite h hr _ with }
  | outOfRange => exact inv_raise h _
  | called => exact inv_syscall h _

theorem StepEffect.inv (he : StepEffect s t) (h : s.clearStepReq.Inv) : t.clearStepReq.Inv := by
  cases he with
  | halted => exact inv_raise h _
  | noOp => exact { h with }
  | ran _ he => exact he.inv h

theorem StepEffect.params (h : StepEffect s t) : t.params = s.params := by
  cases h with
  | ran _ he => exact he.params
  | _ => rfl

theorem inv_engineStep (h : s.clearStepReq.Inv) (ht : s.engineStep = .next t) : t.clearStepReq.Inv := by
  obtain ⟨u, hu, rfl⟩ := stepEffect_of_engineStep ht
  rcases u.retire_cases s.pc s.fetchWord (decode s.fetchWord) with ⟨-, hr⟩ | ⟨-, hr⟩ <;> rw [hr]
  · exact hu.inv h
  · exact { hu.inv h with }

theorem params_of_engineStep (ht : s.engineStep = .next t) : t.params = s.params := by
  obtain ⟨u, hu, rfl⟩ := stepEffect_of_engineStep ht
  exact (State.retire_params ..).trans hu.params

/-- A loaded image is memory in canonical form, and shorter than MEM_SIZE (R221, R226). -/
theorem inv_afterLoad (hp : s.params.wf) {image : List Byte} {e : Word} (h : loadImage s.params image = .ok e) :
    (s.afterLoad image e).Inv where
  paramsLegal := hp
  memCanonical := cellsFrom_wf 0 image
  memInside c hc := by
    have hlt : c.1 < 0 + image.length := (cellsFrom_lower hc).2
    have hsize : image.length < s.params.memSize := (loadImage_ok_size h).2
    exact (hlt.trans_eq (Nat.zero_add _)).trans hsize
  x0Slot := rfl
  noPendingCall := rfl
  noStepRequest := rfl
  reasonIffExited := by simp [State.afterLoad]

theorem inv_afterFailedLoad (hp : s.params.wf) (k : LoadErr) : (s.afterFailedLoad k).Inv where
  paramsLegal := hp
  memCanonical := .nil
  memInside := by simp [State.afterFailedLoad]
  x0Slot := rfl
  noPendingCall := rfl
  noStepRequest := rfl
  reasonIffExited := by simp [State.afterFailedLoad]

theorem inv_doReset (hp : s.params.wf) : s.doReset.Inv := by
  rcases s.doReset_cases with ⟨e, hload, h⟩ | ⟨k, -, h⟩ <;> rw [h]
  exacts [inv_afterLoad hp hload, inv_afterFailedLoad hp k]

theorem doReset_params (s : State) : s.doReset.params = s.params := by
  rcases s.doReset_cases with ⟨e, -, h⟩ | ⟨k, -, h⟩ <;> rw [h] <;> rfl

/-- What an iteration has before its step is the old state with the signals applied, and the invariant but for the request. -/
theorem inv_poll_applySignals (h : s.Inv) (b : Word) : (s.poll.applySignals b).clearStepReq.Inv where
  paramsLegal := by simpa using h.paramsLegal
  memCanonical := by simpa using h.memCanonical
  memInside := by simpa using h.memInside
  x0Slot := by simpa using h.x0Slot
  noPendingCall := by simpa using h.noPendingCall
  noStepRequest := rfl
  reasonIffExited := by simpa using h.reasonIffExited

/-- An engine that makes no step although it is not Halted has no request (R200). -/
theorem stepReq_of_not_mayStep (he : s.exited = false) (hm : s.mayStep = false) : s.stepReq = false := by
  cases hq : s.stepReq with
  | false => rfl
  | true => simp [State.mayStep, he, hq] at hm

/-- An iteration that makes no step has no request to keep: while Halted it is ignored, and otherwise there is none. -/
theorem stepReq_of_idle (h : s.stepReq = false) {b : Word} (hm : (s.poll.applySignals b).mayStep = false) :
    (s.poll.applySignals b).stepReq = false := by
  cases he : s.exited with
  | true => simp [he, h]
  | false => exact stepReq_of_not_mayStep he hm

end

/-- Settles O52: a reset starts afresh (`inv_doReset`), a step keeps all but the step request, which is then cleared
(`inv_engineStep`), and an iteration with neither changes signals only. -/
theorem iterationKeepsTheInvariant : Obligations.IterationKeepsTheInvariant := by
  intro s t h ht
  rcases step_cases s with ⟨-, hs⟩ | ⟨-, -, u, hu, hs⟩ | ⟨-, hm, hs⟩ <;> rw [hs] at ht <;> cases ht
  · exact ⟨inv_doReset h.paramsLegal, doReset_params _⟩
  · exact ⟨inv_engineStep (inv_poll_applySignals h _) hu, by simp [params_of_engineStep hu]⟩
  · have hreq := stepReq_of_idle h.noStepRequest hm
    exact ⟨{ inv_poll_applySignals h s.buttonSample with noStepRequest := hreq }, by simp⟩

/-- Settles O51: no byte is listed, and every other field is as it is written down. -/
theorem resetSatisfiesTheInvariant : Obligations.ResetSatisfiesTheInvariant where
  paramsLegal := ⟨by decide, by decide, Nat.le_add_left 1 _, by decide, by decide, by decide⟩
  memCanonical := .nil
  memInside := by simp [State.reset]
  x0Slot := rfl
  noPendingCall := rfl
  noStepRequest := rfl
  reasonIffExited := by simp [State.reset]

end Sys2Proof.Machine
end

section
/-! SUPPORT. Family 44_loads_stores: the loads (O8 to O10), the stores (O11), and a load or a fetch after a store (O12). -/

namespace Sys2Proof.Machine

/-! ### What a load extends, as integers (R44) -/

theorem sext8_memRead_toInt (s : State) (ea : Word) : (sext8 (s.memRead ea 1)).toInt = (s.byteAt (byteAddr ea 0)).toInt := by
  rw [sext8, BitVec.toInt_signExtend_of_le (by decide), s.memRead_one, BitVec.setWidth_setWidth_of_le _ (by decide),
    BitVec.setWidth_eq]

theorem zext8_memRead_toNat (s : State) (ea : Word) : (zext8 (s.memRead ea 1)).toNat = (s.byteAt (byteAddr ea 0)).toNat := by
  rw [zext8, BitVec.toNat_setWidth_of_le (by decide), s.memRead_one, BitVec.setWidth_setWidth_of_le _ (by decide),
    BitVec.setWidth_eq]

theorem sext16_memRead_toInt (s : State) (ea : Word) :
    (sext16 (s.memRead ea 2)).toInt = (s.byteAt (byteAddr ea 0)).toNat + 256 * (s.byteAt (byteAddr ea 1)).toInt := by
  rw [sext16, BitVec.toInt_signExtend_of_le (by decide), s.memRead_two, toInt_append_of_ne_zero (by decide), Int.add_comm]
  norm_num

theorem toNat_append_bytes {n : Nat} (hi : BitVec n) (lo : Byte) : (hi ++ lo).toNat = lo.toNat + 256 * hi.toNat := by
  rw [BitVec.toNat_append, ← Nat.shiftLeft_add_eq_or_of_lt lo.isLt, Nat.shiftLeft_eq]
  omega

theorem zext16_memRead_toNat (s : State) (ea : Word) :
    (zext16 (s.memRead ea 2)).toNat = (s.byteAt (byteAddr ea 0)).toNat + 256 * (s.byteAt (byteAddr ea 1)).toNat := by
  rw [zext16, BitVec.toNat_setWidth_of_le (by decide), s.memRead_two, toNat_append_bytes]

theorem memRead_four_toNat (s : State) (ea : Word) :
    (s.memRead ea 4).toNat = (s.byteAt (byteAddr ea 0)).toNat + 256 * (s.byteAt (byteAddr ea 1)).toNat +
      65536 * (s.byteAt (byteAddr ea 2)).toNat + 16777216 * (s.byteAt (byteAddr ea 3)).toNat := by
  rw [s.memRead_four, toNat_append_bytes, toNat_append_bytes, toNat_append_bytes]
  omega

/-! ### The loads and the stores -/

/-- Settles O8: LB and LBU are loads (`loadsOrHalts_of`) of one byte, read as signed and as unsigned. -/
theorem byteLoadsExtendOrHalt : Obligations.ByteLoadsExtendOrHalt := fun s _ rs1 imm =>
  ⟨effectiveAddress (s.getReg rs1) imm, _, _, effectiveAddress_int _ imm, sext8_memRead_toInt s _, zext8_memRead_toNat s _,
    loadsOrHalts_of rfl, loadsOrHalts_of rfl⟩

/-- Settles O9: LH and LHU are loads (`loadsOrHalts_of`) of two bytes, of which only the upper one carries the sign. -/
theorem halfLoadsExtendOrHalt : Obligations.HalfLoadsExtendOrHalt := fun s _ rs1 imm =>
  ⟨effectiveAddress (s.getReg rs1) imm, _, _, effectiveAddress_int _ imm, sext16_memRead_toInt s _, zext16_memRead_toNat s _,
    loadsOrHalts_of rfl, loadsOrHalts_of rfl⟩

/-- Settles O10: LW is a load (`loadsOrHalts_of`) of four bytes, which it does not extend. -/
theorem wordLoadReadsLittleEndianOrHalts : Obligations.WordLoadReadsLittleEndianOrHalts := fun s _ rs1 imm =>
  ⟨effectiveAddress (s.getReg rs1) imm, _, effectiveAddress_int _ imm, memRead_four_toNat s _, loadsOrHalts_of (ext := id) rfl⟩

/-- Settles O11: SB, SH and SW are stores (`storesOrHalts_of`) of 1, 2 and 4 bytes. -/
theorem storesWriteLowBytesOrHalt : Obligations.StoresWriteLowBytesOrHalt := fun s rs1 _ imm =>
  ⟨effectiveAddress_int (s.getReg rs1) imm, storesOrHalts_of (by decide) rfl, storesOrHalts_of (by decide) rfl,
    storesOrHalts_of (by decide) rfl⟩

/-! ### A read after a write -/

/-- A read of the bytes just stored gives the low bytes of the value (R42, R43). -/
theorem memRead_memWrite (s : State) (a : Word) (n : Nat) (v : Word) (hn : n ≤ 2 ^ 32) :
    (s.memWrite a n v).memRead a n = leValue (leBytes n v) := by
  rw [State.memRead, s.bytesAt_memWrite a n v hn]

theorem zext16_leValue_leBytes (v : Word) : (zext16 (leValue (leBytes 2 v))).toNat = v.toNat % 65536 := by
  rw [zext16, BitVec.toNat_setWidth_of_le (by decide), leBytes, leBytes, leBytes, leValue_two, toNat_append_bytes,
    BitVec.toNat_setWidth, BitVec.toNat_setWidth, BitVec.toNat_ushiftRight, Nat.shiftRight_eq_div_pow]
  omega

theorem zext8_leValue_leBytes (v : Word) : (zext8 (leValue (leBytes 1 v))).toNat = v.toNat % 256 := by
  rw [zext8, BitVec.toNat_setWidth_of_le (by decide)]
  simp [leBytes, leValue]

/-- A store whose access is inside memory writes the bytes and moves pc. -/
theorem store_of_inside {s : State} {ea : Word} {n : Nat} (h : AccessInside s ea n) (v : Word) :
    s.store ea n v = (s.memWrite ea n v).advance := if_pos ((s.inRange_iff_accessInside ea n).2 h)

/-- A load of the bytes just stored completes with what was stored, extended. -/
theorem load_of_stored {s : State} {ea : Word} {n : Nat} (h : AccessInside s ea n) (v : Word) (hn : n ≤ 2 ^ 32) {rd : RegIdx}
    (hrd : rd ≠ 0#5) (ext : Word → Word) :
    ((s.store ea n v).load rd ea n ext).getReg rd = ext (leValue (leBytes n v)) := by
  rw [store_of_inside h]
  have hr : (s.memWrite ea n v).advance.inRange ea n = true := (s.inRange_iff_accessInside ea n).2 h
  rw [State.load, if_pos hr, State.advance_memRead, memRead_memWrite s ea n v hn]
  exact State.getReg_setReg_same _ _ hrd

/-- Settles O12: the bytes read are those just written (`load_of_stored`), so the value read is the stored value's low part. -/
theorem loadAndFetchSeeTheStore : Obligations.LoadAndFetchSeeTheStore := by
  intro s rs1 rs2 rd q imm disp hrd
  refine ⟨?sw, ?sh, ?sb⟩ <;> rintro t ⟨⟩ hinside hea
  case sw =>
    refine ⟨⟨_, rfl, ?_⟩, ?_⟩
    · rw [hea, load_of_stored hinside _ (by decide) hrd]
      exact leValue_leBytes_four _
    · rw [store_of_inside hinside]
      exact (memRead_memWrite s _ 4 _ (by decide)).trans (leValue_leBytes_four _)
  case sh =>
    refine ⟨_, rfl, ?_⟩
    rw [hea, load_of_stored hinside _ (by decide) hrd]
    exact zext16_leValue_leBytes _
  case sb =>
    refine ⟨_, rfl, ?_⟩
    rw [hea, load_of_stored hinside _ (by decide) hrd]
    exact zext8_leValue_leBytes _

end Sys2Proof.Machine
end

section
/-! SUPPORT. Families 42_jumps (O4), 45_op_imm (O14, O16) and 46_op (O18). -/

namespace Sys2Proof.Machine

/-- Settles O4: JALR is a link and jump (`linksAndJumps_of`) to the sum with the old base, its low bit cleared
(`jalrTarget_int`). -/
theorem jalrLinksAndJumpsToEvenTarget : Obligations.JalrLinksAndJumpsToEvenTarget := fun s _ rs1 imm =>
  ⟨s.pc + 4#32, jalrTarget (s.getReg rs1) imm, BitVec.toNat_add s.pc 4#32, jalrTarget_int _ imm, linksAndJumps_of rfl⟩

/-- A set-less-than whose comparison decides `P` writes 1 under `P` and 0 otherwise. -/
theorem writesRegister_of_boolWord {i : Instr} {s : State} {rd : RegIdx} {b : Bool} {P : Prop} [Decidable P]
    (h : exec i s = .next (s.writeResult rd (boolWord b))) (hP : b = true ↔ P) :
    WritesRegister i s rd (if P then 1#32 else 0#32) := by
  have hv : boolWord b = if P then 1#32 else 0#32 := if_congr hP rfl rfl
  exact writesRegister_of (hv ▸ h)

/-- Settles O14: SLTI and SLTIU are set-less-thans (`writesRegister_of_boolWord`) against `sext_12`, read as signed and as
unsigned. -/
theorem sltiSltiuCompareWithImmediate : Obligations.SltiSltiuCompareWithImmediate := by
  intro s rd rs1 imm
  have hsigned := ltSigned_iff (s.getReg rs1) (sext12 imm)
  have hunsigned := ltUnsigned_iff (s.getReg rs1) (sext12 imm)
  rw [sext12_toInt] at hsigned
  rw [← Int.ofNat_lt, sext12_toNat] at hunsigned
  exact ⟨writesRegister_of_boolWord rfl hsigned, writesRegister_of_boolWord rfl hunsigned⟩

/-- Settles O18: SLT and SLTU are set-less-thans (`writesRegister_of_boolWord`) by the signed and the unsigned order. -/
theorem sltSltuCompareRegisters : Obligations.SltSltuCompareRegisters := fun _ _ _ _ =>
  ⟨writesRegister_of_boolWord rfl (ltSigned_iff _ _), writesRegister_of_boolWord rfl (ltUnsigned_iff _ _)⟩

/-- Settles O16: SLLI, SRLI and SRAI are register results (`writesRegister_of`) whose values are the shifts of words. -/
theorem immediateShiftsScaleByPowersOfTwo : Obligations.ImmediateShiftsScaleByPowersOfTwo := by
  intro s rd rs1 shamt
  refine ⟨s.getReg rs1 <<< shamt.toNat, s.getReg rs1 >>> shamt.toNat, (s.getReg rs1).sshiftRight shamt.toNat,
    ?left, ?right, ?arith, writesRegister_of rfl, writesRegister_of rfl, writesRegister_of rfl⟩
  case left => rw [BitVec.toNat_shiftLeft, Nat.shiftLeft_eq]
  case right => rw [BitVec.toNat_ushiftRight, Nat.shiftRight_eq_div_pow]
  case arith => rw [BitVec.toInt_sshiftRight, Int.shiftRight_eq_div_pow, Nat.cast_pow, Nat.cast_ofNat]

end Sys2Proof.Machine
end

section
/-! SUPPORT. Family 48_syscalls: the strings of call 101 (O23, O24), the registers of call 103 (O25), and the input of call 200
(O26). -/

namespace Sys2Proof.Machine

theorem State.dispatchCall_printStr (s : State) (cur arg : Word) : s.dispatchCall cur 101#32 arg = s.callPrintStr cur arg := rfl

theorem State.dispatchCall_dumpRegs (s : State) (cur arg : Word) : s.dispatchCall cur 103#32 arg = s.callDumpRegs := rfl

theorem State.dispatchCall_readInput (s : State) (cur arg : Word) : s.dispatchCall cur 200#32 arg = s.callReadInput := rfl

theorem State.callPrintStr_of_ok {s : State} {arg : Word} {bs : List Byte} (h : s.readString s.params.strMax arg = .ok bs)
    (cur : Word) : s.callPrintStr cur arg = s.emitDiag (.printStr bs) := by
  simp only [State.callPrintStr, h]

theorem State.callPrintStr_of_error {s : State} {arg ea : Word} (h : s.readString s.params.strMax arg = .error ea)
    (cur : Word) : s.callPrintStr cur arg = (s.setPc cur).raise (.dataOutOfRange ea cur) := by
  simp only [State.callPrintStr, h]

/-- The handler reads the string from the memory the ECALL found. -/
theorem readString_in_ecall (s : State) (n : Nat) (a : Word) :
    (s.setEcallPending true).advance.readString n a = s.readString n a :=
  State.readString_congr (s := s) (t := (s.setEcallPending true).advance) rfl rfl rfl n a

/-- Settles O23: the string loop reads up to the first zero byte or the bound (`readString_ok`), and the call only emits what it
read (`callOnlyEmits_of`). -/
theorem ecallPrintsStringUpToZeroOrBound : Obligations.EcallPrintsStringUpToZeroOrBound := by
  intro s n (hn : s.getReg regA0 = 101#32) hle hbytes hzero
  have hstr := (readString_in_ecall s _ _).trans (s.readString_ok n s.params.strMax (s.getReg regA1) hle hbytes hzero)
  apply callOnlyEmits_of
  rw [hn, State.dispatchCall_printStr]
  exact State.callPrintStr_of_ok hstr _

/-- A fatal halt inside the handler, with pc put back, is the fatal halt of the state the ECALL started from (R97, D19). -/
theorem fatalHaltOf_raise_at_ecall (s : State) (f : Fatal) :
    FatalHaltOf s ((((s.setEcallPending true).advance.setPc s.pc).raise f).setEcallPending false) f := by
  simp [FatalHaltOf, SameRegs, SameMem, SameInputs]

/-- Settles O24: the string loop stops at its first byte out of range (`readString_error`), and the call halts with pc put back to
the ECALL's own address. -/
theorem ecallStringOutOfRangeHalts : Obligations.EcallStringOutOfRangeHalts := by
  intro s n (hn : s.getReg regA0 = 101#32) hlt hbytes hout
  have hstr := (readString_in_ecall s _ _).trans (s.readString_error n s.params.strMax (s.getReg regA1) hlt hbytes hout)
  have hcall := (State.dispatchCall_printStr _ _ _).trans (State.callPrintStr_of_error hstr s.pc)
  rw [← hn] at hcall
  exact ⟨_, exec_ecall_of_dispatchCall hcall, fatalHaltOf_raise_at_ecall s _⟩

/-- Settles O25: call 103 only emits (`callOnlyEmits_of`), and what it emits is each register as it is read. -/
theorem ecallDumpsAllRegisters : Obligations.EcallDumpsAllRegisters := by
  intro s (hn : s.getReg regA0 = 103#32)
  refine ⟨Vector.ofFn fun i : Fin 32 => s.getReg (BitVec.ofNat 5 i.val), fun i h => Vector.getElem_ofFn h, ?_⟩
  apply callOnlyEmits_of
  rw [hn]
  exact State.dispatchCall_dumpRegs _ _ _

/-- Settles O26: call 200 is a switch read whose value goes to x10 and into the event; both sources of the value answer alike. -/
theorem ecallReadsSwitchesIntoA0 : Obligations.EcallReadsSwitchesIntoA0 := by
  intro s v rest (hn : s.getReg regA0 = 200#32) hswitch
  obtain ⟨hv, hrest, hfree⟩ : s.switchSample = v ∧ s.switches.tail = rest ∧
      (if s.switches.isEmpty then s.freeSwitches + 1 else s.freeSwitches) =
        s.freeSwitches + (if s.switches = [] then 1 else 0) := by
    rcases hswitch with h | ⟨h, rfl, rfl⟩ <;> simp [State.switchSample, h]
  have hexec : exec .ecall s = .next ((s.setEcallPending true).advance.callReadInput.setEcallPending false) :=
    exec_ecall_of_dispatchCall (hn ▸ State.dispatchCall_readInput _ _ _)
  refine ⟨_, hexec, hv ▸ State.getReg_setReg_same _ _ (by decide), fun r hr => State.getReg_setReg_ne _ _ hr, hv ▸ rfl, ?_⟩
  simp [State.callReadInput, State.nextPc, SameMem, hrest, ← hfree]

end Sys2Proof.Machine
end

section
/-! SUPPORT. Family 47_system_misc: EBREAK (O28), MISC-MEM words (O29), unknown words (O30) and reserved words (O31). -/

namespace Sys2Proof.Machine

/-- Settles O28: EBREAK sets `paused`, advances, and does no more. -/
theorem ebreakPauses : Obligations.EbreakPauses := fun s =>
  ⟨(s.setPaused true).advance, rfl, rfl, rfl, fun _ => rfl, fun _ => rfl, rfl, rfl, rfl, rfl,
    ⟨rfl, rfl, rfl, rfl, rfl, rfl, rfl, rfl⟩, ⟨rfl, rfl⟩⟩

/-- A Running engine's completed step emits its trace event (R96). -/
theorem retire_of_running {s : State} (h : s.exited = false) (cur w : Word) (d : Decoded) :
    s.retire cur w d = s.emitTrace (.executed cur w d (traceLineOf d)) :=
  if_neg (by simp [State.faulted_of_running h])

/-- A faulted step emits nothing more (D31). -/
theorem retire_raise (s : State) (f : Fatal) (cur w : Word) (d : Decoded) : (s.raise f).retire cur w d = s.raise f :=
  if_pos (s.faulted_raise f)

/-- What a step is that only moves pc to `cur + 4` and emits its trace event. -/
def StepIsNoOp (s : State) (d : Decoded) : Prop :=
  ∃ t, s.engineStep = .next t ∧ t.pc = s.pc + 4#32 ∧ SameRegs s t ∧ SameMem s t ∧ SameControl s t ∧ SameInputs s t ∧
    t.diag = s.diag ∧ t.trace = s.trace ++ [.executed s.pc s.fetchWord d (traceLineOf d)]

/-- A word of which all `Execute` does is to advance makes such a step. -/
theorem stepIsNoOp_of {s : State} {d : Decoded} (hrun : s.exited = false) (hf : s.fetchFatal = none)
    (hd : decode s.fetchWord = d) (h : execDecoded d s.fetchWord s = .next s.advance) : StepIsNoOp s d := by
  have hstep := State.engineStep_of_decode hf hd h
  rw [retire_of_running (s := s.advance) hrun] at hstep
  exact ⟨_, hstep, rfl, fun _ => rfl, fun _ => rfl, ⟨rfl, rfl, rfl, rfl, rfl⟩, ⟨rfl, rfl, rfl, rfl, rfl, rfl, rfl, rfl⟩, rfl, rfl⟩

/-- Settles O29: a MISC-MEM word decodes to FENCE (R78), whose step is a no-op (`stepIsNoOp_of`). -/
theorem fenceIsNoOpOnState : Obligations.FenceIsNoOpOnState := by
  refine ⟨fun s => onlyMovesPc_of rfl, fun s hrun hf hop => ?_⟩
  have hd : decode s.fetchWord = .instr .fence :=
    decode_of_opMiscMem (BitVec.eq_of_toNat_eq ((opcodeOf_toNat _).trans hop))
  exact stepIsNoOp_of hrun hf hd rfl

/-- Settles O30: a word with no known opcode decodes to `unknown` (R79), whose step is a no-op (`stepIsNoOp_of`). -/
theorem unknownOpcodeIsNoOp : Obligations.UnknownOpcodeIsNoOp := by
  intro s hrun hf hop
  have hd : decode s.fetchWord = .unknown := decode_of_not_known ((opcodeOf_toNat _).symm ▸ hop)
  exact stepIsNoOp_of hrun hf hd rfl

/-- Settles O31: the two policies of `runReserved_cases`, a no-op step (`stepIsNoOp_of`) and a fatal halt. -/
theorem reservedWordFollowsItsPolicy : Obligations.ReservedWordFollowsItsPolicy := by
  intro s hrun hf hd
  rcases s.runReserved_cases s.fetchWord with ⟨hp, h⟩ | ⟨hp, h⟩
  · exact ⟨fun _ => stepIsNoOp_of hrun hf hd (congrArg Host.Outcome.next h), fun hp' => by simp [hp] at hp'⟩
  · refine ⟨fun hp' => by simp [hp] at hp', fun _ => ?_⟩
    have hstep := State.engineStep_of_decode hf hd (congrArg Host.Outcome.next h)
    rw [retire_raise] at hstep
    exact ⟨_, hstep, fatalHaltOf_raise _ _⟩

end Sys2Proof.Machine
end

section
/-! SUPPORT. Family 40_execution_cycle: the step runs what it fetched (O39), the checks before a fetch (O40, O41), and that
nothing stops the model (O42). -/

namespace Sys2Proof.Machine

/-- A check that finds a fatal condition halts the step with it. -/
theorem engineStep_of_fetchFatal {s : State} {f : Fatal} (h : s.fetchFatal = some f) : s.engineStep = .next (s.raise f) := by
  simp only [State.engineStep, h]

/-- Such a step is the fatal halt of R192. -/
theorem fatalHalt_of_fetchFatal {s : State} {f : Fatal} (h : s.fetchFatal = some f) :
    ∃ t, s.engineStep = .next t ∧ FatalHaltOf s t f := ⟨_, engineStep_of_fetchFatal h, fatalHaltOf_raise s f⟩

section
variable {s : State}

/-! The checks of R90 in their order, each where those before it find nothing. -/

theorem fetchFatal_of_outOfBounds (h : s.params.memSize ≤ s.pc.toNat) : s.fetchFatal = some (.pcOutOfBounds s.pc) := if_pos h

/-- The pc passes the alignment check: its policy is off, or it is a multiple of 4 (R46). -/
theorem aligned_iff : ¬ (s.params.misalignedPc = .fault ∧ s.pc.extractLsb' 0 2 ≠ 0#2) ↔
    s.params.misalignedPc = .fetchUnaligned ∨ s.pc.toNat % 4 = 0 := by
  rw [Ne, low_two_zero_iff]
  cases s.params.misalignedPc <;> simp

theorem fetchFatal_of_misaligned (hb : s.pc.toNat < s.params.memSize) (hp : s.params.misalignedPc = .fault)
    (ha : s.pc.toNat % 4 ≠ 0) : s.fetchFatal = some (.misalignedPc s.pc) := by
  have hlow : s.pc.extractLsb' 0 2 ≠ 0#2 := mt (low_two_zero_iff s.pc).1 ha
  rw [State.fetchFatal, if_neg (Nat.not_le.2 hb), if_pos ⟨hp, hlow⟩]

theorem fetchFatal_of_outside (hb : s.pc.toNat < s.params.memSize)
    (ha : s.params.misalignedPc = .fetchUnaligned ∨ s.pc.toNat % 4 = 0) (hr : ¬ AccessInside s s.pc 4) :
    s.fetchFatal = some (.fetchOutOfRange s.pc) := by
  have hrange : s.inRange s.pc 4 = false := Bool.not_eq_true _ ▸ mt (s.inRange_iff_accessInside s.pc 4).1 hr
  rw [State.fetchFatal, if_neg (Nat.not_le.2 hb), if_neg (aligned_iff.2 ha), hrange]
  rfl

theorem fetchFatal_of_inside (hb : s.pc.toNat < s.params.memSize)
    (ha : s.params.misalignedPc = .fetchUnaligned ∨ s.pc.toNat % 4 = 0) (hr : AccessInside s s.pc 4) : s.fetchFatal = none :=
  s.fetchFatal_none_iff.2 ⟨hb, aligned_iff.2 ha, (s.inRange_iff_accessInside s.pc 4).2 hr⟩

end

/-- Settles O40: the first check of R90 halts the step, and no other check reports PcOutOfBounds. -/
theorem pcOutOfBoundsHaltsTheStep : Obligations.PcOutOfBoundsHaltsTheStep := by
  refine fun s => ⟨fun h => fatalHalt_of_fetchFatal (fetchFatal_of_outOfBounds h), fun hb pc hf => ?_⟩
  rw [State.fetchFatal, if_neg (Nat.not_le.2 hb)] at hf
  split at hf
  · cases hf
  · split at hf <;> cases hf

/-- Settles O41: each check, where those before it find nothing. -/
theorem fetchChecksHaltInOrder : Obligations.FetchChecksHaltInOrder := fun _ hb =>
  ⟨fun hp ha => fatalHalt_of_fetchFatal (fetchFatal_of_misaligned hb hp ha),
    fun ha hr => fatalHalt_of_fetchFatal (fetchFatal_of_outside hb ha hr), fetchFatal_of_inside hb⟩

/-- Settles O42: every case of `exec_effect` and of `step_cases` is a next state. -/
theorem everyIterationAnswersANextState : Obligations.EveryIterationAnswersANextState := by
  refine ⟨fun i s => (exec_effect i s).imp fun _ h => h.1, fun s => ?_⟩
  rcases step_cases s with ⟨-, h⟩ | ⟨-, -, t, -, h⟩ | ⟨-, -, h⟩ <;> exact ⟨_, h⟩

/-- The peripherals and the signals change neither the pc nor the bytes there. -/
theorem State.fetchWord_poll_applySignals (s : State) (b : Word) : (s.poll.applySignals b).fetchWord = s.fetchWord := by
  simp [State.fetchWord]

theorem mayStep_of {s : State} (he : s.exited = false) (h : s.paused = false ∨ s.stepReq = true) : s.mayStep = true := by
  rcases h with h | h <;> simp [State.mayStep, he, h]

/-- Settles O39: the state that is stepped has the old registers, memory and pc, and its step is the instruction's meaning
retired (`engineStep_of_decode`), with the request cleared (`step_of_engineStep`). -/
theorem stepRunsTheDecodedInstruction : Obligations.StepRunsTheDecodedInstruction := by
  rintro s u t w i hreset rfl he hstep hf hw hd ht
  have hword : (s.poll.applySignals s.buttonSample).fetchWord = w :=
    (s.fetchWord_poll_applySignals _).trans ((s.memRead_four s.pc).trans hw.symm)
  have hexec : execDecoded (.instr i) (s.poll.applySignals s.buttonSample).fetchWord _ = .next t := ht
  have hengine := State.engineStep_of_decode hf (hword.symm ▸ hd) hexec
  rw [step_of_engineStep hreset (mayStep_of he hstep) hengine, hword, State.applySignals_pc, State.poll_pc, State.retire]
  constructor
  · simp
  · split <;> rfl

end Sys2Proof.Machine
end

section
/-! SUPPORT. Families 60_exceptions and 70_reset_and_hazards, run control: Paused (O44), the toggle (O45), the single step (O46),
and that a step from Paused is the step of a Running engine (O47). -/

namespace Sys2Proof.Machine

/-! ### Paused and no signal -/

/-- With neither the toggle nor a step request the signals change nothing (R198, R199). -/
theorem State.applySignals_of_no_signal (s : State) {b : Word} (ht : toggleBit b = false) (hs : stepBit b = false) :
    s.applySignals b = s := by
  have htoggle : (s.paused ^^ (toggleBit b && !s.exited)) = s.paused := by simp [ht]
  have hstep : (s.stepReq || (stepBit b && !s.exited)) = s.stepReq := by simp [hs]
  rw [State.applySignals, htoggle, hstep]

/-- Settles O44: with no signal the iteration's whole effect is the poll, which takes the mask and refreshes the LED. -/
theorem pausedWaitsForASignal : Obligations.PausedWaitsForASignal := by
  intro s _ hp hq h0 h1 h3
  have hsignals : s.poll.applySignals s.buttonSample = s.poll := s.poll.applySignals_of_no_signal h1 h0
  have hm : (s.poll.applySignals s.buttonSample).mayStep = false := by simp [hsignals, State.mayStep, hp, hq]
  have hstep : step s = .next s.poll := by rw [step_of_not_mayStep h3 hm, hsignals]
  exact ⟨s.poll, hstep, s.poll_getReg, s.poll_byteAt, s.poll_pc, ⟨rfl, rfl, rfl, rfl, rfl⟩, ⟨rfl, rfl⟩,
    s.poll_buttons, s.poll_led, s.poll_images, s.poll_freeButtons_eq_add, s.poll_resetCount, s.poll_params⟩

/-! ### One step under given signals -/

/-- An iteration that may step after the signals makes that step and clears the request (R196). -/
theorem step_of_signals {s : State} (he : s.exited = false) (hr : resetBit s.buttonSample = false) {p q : Bool}
    (hp : (s.paused ^^ toggleBit s.buttonSample) = p) (hq : (s.stepReq || stepBit s.buttonSample) = q)
    (hm : p = false ∨ q = true) :
    ∃ u, { s.poll with paused := p, stepReq := q }.engineStep = .next u ∧ step s = .next u.clearStepReq := by
  have hsignals : s.poll.applySignals s.buttonSample = { s.poll with paused := p, stepReq := q } :=
    s.poll_applySignals (by simp [he, hp]) (by simp [he, hq])
  obtain ⟨u, hu⟩ := { s.poll with paused := p, stepReq := q }.engineStep_next
  exact ⟨u, hu, step_of_engineStep hr (hsignals ▸ mayStep_of he hm) (hsignals ▸ hu)⟩

/-- Only an EBREAK changes `paused`, and it sets it (R166). -/
theorem paused_of_engineStep {s t : State} (h : s.engineStep = .next t) :
    t.paused = s.paused ∨ (decode s.fetchWord = .instr .ebreak ∧ t.paused = true) := by
  obtain ⟨u, hu, rfl⟩ := stepEffect_of_engineStep h
  rw [State.retire_paused]
  cases hu with
  | halted | noOp => exact .inl rfl
  | ran hd he => exact he.paused.imp_right fun ⟨hi, hp⟩ => ⟨hi ▸ hd, hp⟩

/-- A step of a Paused engine leaves it Paused. -/
theorem paused_of_engineStep_paused {s t : State} (hp : s.paused = true) (h : s.engineStep = .next t) : t.paused = true :=
  (paused_of_engineStep h).elim (·.trans hp) (·.2)

/-- Settles O45: the signals give the state that is stepped, if any (`step_of_signals`), and only an EBREAK changes `paused`
after them (`paused_of_engineStep`). -/
theorem toggleActsBeforeTheStep : Obligations.ToggleActsBeforeTheStep := by
  intro s he hq (h1 : toggleBit s.buttonSample = true) (h3 : resetBit s.buttonSample = false)
  refine ⟨fun hp (h0 : stepBit s.buttonSample = false) => ?pause, fun hp (h0 : stepBit s.buttonSample = true) => ?single,
    fun hp => ?resume⟩
  case pause =>
    have hm : (s.poll.applySignals s.buttonSample).mayStep = false := by simp [State.mayStep, he, hp, hq, h0, h1]
    refine ⟨_, step_of_not_mayStep h3 hm, ?_⟩
    simp [SameRegs, SameMem, SameOutputs, he, hp, hq, h0, h1]
  case single =>
    obtain ⟨u, hu, hs⟩ := step_of_signals (p := true) (q := true) he h3 (by simp [hp, h1]) (by simp [h0]) (.inr rfl)
    have hpaused : u.paused = true := paused_of_engineStep_paused rfl hu
    exact ⟨u, _, hu, hs, rfl, rfl, rfl, rfl, rfl, hpaused, rfl, rfl⟩
  case resume =>
    obtain ⟨u, hu, hs⟩ := step_of_signals (p := false) (q := stepBit s.buttonSample) he h3 (by simp [hp, h1]) (by simp [hq])
      (.inl rfl)
    refine ⟨u, _, hu, hs, rfl, fun hd => ?_⟩
    have hpaused : u.paused = false := (paused_of_engineStep hu).resolve_right fun h => hd h.1
    refine ⟨hpaused, ?_⟩
    cases hx : u.exited <;> simp [State.runState, hpaused, hx]

/-- Settles O46: the step request makes one step (`step_of_signals`), which leaves a Paused engine Paused. -/
theorem singleStepReturnsToPaused : Obligations.SingleStepReturnsToPaused := by
  intro s he hp (h0 : stepBit s.buttonSample = true) (h1 : toggleBit s.buttonSample = false) h3
  obtain ⟨u, hu, hs⟩ := step_of_signals (p := s.paused) (q := true) he h3 (by simp [h1]) (by simp [h0]) (.inr rfl)
  have hpaused : u.paused = true := paused_of_engineStep_paused (s := { s.poll with stepReq := true }) hp hu
  refine ⟨u, _, hu, hs, rfl, hpaused, rfl, ?_⟩
  cases hx : u.exited <;> simp [State.runState, hpaused, hx]

/-! ### Nothing but `paused` and `step_req` depends on `paused` and `step_req` (R235) -/

/-- The state with these run-control requests in the place of its own. -/
def State.withRun (s : State) (p q : Bool) : State := { s with paused := p, stepReq := q }

section
variable (s : State) (p q : Bool)

theorem writeResult_withRun (rd : RegIdx) (v : Word) : (s.withRun p q).writeResult rd v = (s.writeResult rd v).withRun p q := rfl

theorem jumpLink_withRun (rd : RegIdx) (target : Word) :
    (s.withRun p q).jumpLink rd target = (s.jumpLink rd target).withRun p q := rfl

theorem setPc_withRun (target : Word) : (s.withRun p q).setPc target = (s.setPc target).withRun p q := rfl

theorem load_withRun (rd : RegIdx) (ea : Word) (n : Nat) (ext : Word → Word) :
    (s.withRun p q).load rd ea n ext = (s.load rd ea n ext).withRun p q := by
  rw [State.load, State.load, apply_ite (State.withRun · p q)]
  rfl

theorem store_withRun (ea : Word) (n : Nat) (v : Word) : (s.withRun p q).store ea n v = (s.store ea n v).withRun p q := by
  rw [State.store, State.store, apply_ite (State.withRun · p q)]
  rfl

theorem retire_withRun (cur w : Word) (d : Decoded) :
    (s.withRun p q).retire cur w d = (s.retire cur w d).withRun p q := by
  rw [State.retire, State.retire, apply_ite (State.withRun · p q)]
  rfl

theorem runReserved_withRun (w : Word) : (s.withRun p q).runReserved w = (s.runReserved w).withRun p q := by
  rcases s.runReserved_cases w with ⟨hp, h⟩ | ⟨hp, h⟩ <;> rw [h, State.runReserved]
  · rw [show (s.withRun p q).params.reserved = .softNop from hp]
    rfl
  · rw [show (s.withRun p q).params.reserved = .fault from hp]
    rfl

theorem readString_withRun (n : Nat) (a : Word) : (s.withRun p q).readString n a = s.readString n a :=
  State.readString_congr (s := s) (t := s.withRun p q) rfl rfl rfl n a

theorem callPrintStr_withRun (cur arg : Word) :
    (s.withRun p q).callPrintStr cur arg = (s.callPrintStr cur arg).withRun p q := by
  rcases s.callPrintStr_cases cur arg with ⟨bs, hr, h⟩ | ⟨ea, hr, h⟩ <;> rw [h]
  · exact State.callPrintStr_of_ok ((readString_withRun s p q _ _).trans hr) cur
  · exact State.callPrintStr_of_error ((readString_withRun s p q _ _).trans hr) cur

theorem dispatchCall_withRun (cur n arg : Word) :
    (s.withRun p q).dispatchCall cur n arg = (s.dispatchCall cur n arg).withRun p q := by
  unfold State.dispatchCall
  rw [callPrintStr_withRun]
  split_ifs <;> rfl

theorem syscall_withRun (cur : Word) : (s.withRun p q).syscall cur = (s.syscall cur).withRun p q :=
  congrArg (State.setEcallPending · false) (dispatchCall_withRun s p q cur _ _)

/-- Every instruction has the same effect whatever the two flags, and leaves `step_req` alone. -/
theorem exec_withRun (i : Instr) : ∃ p', exec i (s.withRun p q) = onNext (exec i s) (State.withRun · p' q) := by
  cases i with
  | lb | lh | lw | lbu | lhu => exact ⟨p, congrArg Host.Outcome.next (load_withRun ..)⟩
  | sb | sh | sw => exact ⟨p, congrArg Host.Outcome.next (store_withRun ..)⟩
  | jal | jalr => exact ⟨p, congrArg Host.Outcome.next (jumpLink_withRun ..)⟩
  | beq | bne | blt | bge | bltu | bgeu => exact ⟨p, congrArg Host.Outcome.next (setPc_withRun ..)⟩
  | ecall => exact ⟨p, congrArg Host.Outcome.next (syscall_withRun (s.setEcallPending true).advance p q s.pc)⟩
  | ebreak => exact ⟨true, rfl⟩
  | fence => exact ⟨p, rfl⟩
  | _ => exact ⟨p, congrArg Host.Outcome.next (writeResult_withRun ..)⟩

theorem execDecoded_withRun (d : Decoded) (w : Word) :
    ∃ p', execDecoded d w (s.withRun p q) = onNext (execDecoded d w s) (State.withRun · p' q) := by
  cases d with
  | instr i => exact exec_withRun s p q i
  | unknown => exact ⟨p, rfl⟩
  | reserved => exact ⟨p, congrArg Host.Outcome.next (runReserved_withRun s p q w)⟩

/-- R235 for one step: the two flags change nothing else of what it leaves. -/
theorem engineStep_withRun {t : State} (h : s.engineStep = .next t) :
    ∃ p', (s.withRun p q).engineStep = .next (t.withRun p' q) := by
  rcases s.engineStep_cases with ⟨f, hf, hs⟩ | ⟨hf, u, hu, hs⟩ <;> cases h.symm.trans hs
  · exact ⟨p, engineStep_of_fetchFatal (s := s.withRun p q) hf⟩
  · obtain ⟨p', hp'⟩ := execDecoded_withRun s p q (decode s.fetchWord) s.fetchWord
    rw [hu] at hp'
    refine ⟨p', ?_⟩
    rw [← retire_withRun]
    exact State.engineStep_of_decode (s := s.withRun p q) hf rfl hp'

end

/-- Settles O47: the two iterations step states that differ only in `paused` and `step_req`, which change nothing else of what
a step leaves (`engineStep_withRun`). -/
theorem pausedStepEqualsRunningStep : Obligations.PausedStepEqualsRunningStep := by
  intro s bs he
  obtain ⟨t, ht⟩ := { s with buttons := 0#32 :: bs }.poll.engineStep_next
  obtain ⟨p, hp⟩ := engineStep_withRun _ false s.stepReq ht
  obtain ⟨p', hp'⟩ := engineStep_withRun _ true true ht
  obtain ⟨u, hu, hsu⟩ := step_of_signals (s := { s with paused := false, buttons := 0#32 :: bs }) (p := false)
    (q := s.stepReq) he (by simp [State.buttonSample, resetBit]) (by simp [State.buttonSample, toggleBit])
    (by simp [State.buttonSample, stepBit]) (.inl rfl)
  obtain ⟨v, hv, hsv⟩ := step_of_signals (s := { s with paused := true, buttons := 1#32 :: bs }) (p := true)
    (q := true) he (by simp [State.buttonSample, resetBit]) (by simp [State.buttonSample, toggleBit])
    (by simp [State.buttonSample, stepBit]) (.inr rfl)
  have hpaused : v.paused = true := paused_of_engineStep_paused rfl hv
  cases hu.symm.trans hp
  cases hv.symm.trans hp'
  exact ⟨_, _, hsu, hsv, rfl, rfl, rfl, rfl, rfl, rfl, rfl, rfl, rfl, hpaused⟩

end Sys2Proof.Machine
end

section
/-! SUPPORT. Family 70_reset_and_hazards: a reset with a good image (O48) and with a refused one (O49), and the loader (O50). -/

namespace Sys2Proof.Machine

/-! ### Reset -/

/-- An iteration with a reset request is the reset, and no more than the peripherals besides (R197, R203). -/
theorem step_of_reset {s : State} (hr : resetBit s.buttonSample = true) : step s = .next s.poll.doReset := by
  rw [step, State.iterate, hr]
  rfl

theorem getReg_of_regs_zero {t : State} (h : t.regs = Vector.replicate 32 0#32) (r : RegIdx) : t.getReg r = 0#32 := by
  simp [State.getReg, h]

theorem doReset_of_ok {s : State} {e : Word} (h : loadImage s.params s.nextImage = .ok e) :
    s.doReset = s.afterLoad s.nextImage e := by
  simp only [State.doReset, h]

theorem doReset_of_error {s : State} {k : LoadErr} (h : loadImage s.params s.nextImage = .error k) :
    s.doReset = s.afterFailedLoad k := by
  simp only [State.doReset, h]

section
variable (s : State) (image : List Byte) (e : Word)

/-- The image stands at address 0 after a good load (R226). -/
theorem afterLoad_byteAt_inside {a : Nat} (h : a < image.length) : (s.afterLoad image e).byteAt a = image[a] := by
  have hlookup := lookup_cellsFrom_inside 0 image a h
  rw [Nat.zero_add] at hlookup
  simp only [State.byteAt, State.afterLoad, hlookup]

/-- Past the image every byte is free anew (R231, D13). -/
theorem afterLoad_byteAt_above {a : Nat} (h : image.length ≤ a) :
    (s.afterLoad image e).byteAt a = Config.freeByte (s.resetCount + 1) a := by
  have hlookup : Memory.lookup (cellsFrom 0 image) a = none := lookup_cellsFrom_above 0 image (by omega)
  simp only [State.byteAt, State.afterLoad, hlookup, State.clearForReset_resetCount]

end

/-- Settles O48: the iteration is the reset (`step_of_reset`), and a good load lists the image and no other byte. -/
theorem resetLoadsTheImageAndStartsFresh : Obligations.ResetLoadsTheImageAndStartsFresh := by
  rintro s image entry hr rfl hload
  have hreset : s.poll.doReset = s.poll.afterLoad s.nextImage entry := doReset_of_ok (s := s.poll) hload
  refine ⟨_, (step_of_reset hr).trans (congrArg _ hreset), getReg_of_regs_zero rfl, rfl,
    fun a h => afterLoad_byteAt_inside s.poll s.nextImage entry h,
    fun a h => afterLoad_byteAt_above s.poll s.nextImage entry h, ?_⟩
  simp [State.afterLoad, State.runState, SameOutputs]

/-- Settles O49: the iteration is the reset (`step_of_reset`), and a refused load leaves `afterFailedLoad`. -/
theorem resetWithBadImageHalts : Obligations.ResetWithBadImageHalts := by
  rintro s image k hr rfl hload
  have hreset : s.poll.doReset = s.poll.afterFailedLoad k := doReset_of_error (s := s.poll) hload
  refine ⟨_, (step_of_reset hr).trans (congrArg _ hreset), getReg_of_regs_zero rfl, ?_⟩
  simp [State.afterFailedLoad, State.runState]

/-! ### The loader (R220 to R227) -/

section
variable {p : Params} {image : List Byte}

/-! The checks as claims about the image's bytes: with legal parameters every field lies inside an image that passed the size
check (R225). -/

theorem magic_iff (hs : 52 < image.length) :
    (imageU32 image 0 ≠ p.magic0 ∨ imageU32 image 4 ≠ p.magic1) ↔ ¬ MagicOk p image := by
  rw [MagicOk, ← imageU32_eq_iff image 0 (by omega), ← imageU32_eq_iff image 4 (by omega)]
  tauto

theorem type_iff (hp : p.wf) (hs : 52 < image.length) : imageU16 image p.offType ≠ p.typeExec ↔ ¬ TypeOk p image := by
  obtain ⟨-, -, -, ht, -, -⟩ := hp
  rw [Config.hdrMin] at ht
  rw [TypeOk, ← imageU16_eq_iff image _ (by omega)]

theorem machine_iff (hp : p.wf) (hs : 52 < image.length) :
    imageU16 image p.offMachine ≠ p.machineId ↔ ¬ MachineOk p image := by
  obtain ⟨-, -, -, -, hm, -⟩ := hp
  rw [Config.hdrMin] at hm
  rw [MachineOk, ← imageU16_eq_iff image _ (by omega)]

theorem entry_iff (hp : p.wf) (hs : 52 < image.length) (e : Word) :
    imageU32 image p.offEntry = e ↔ FieldIs image p.offEntry 4 e.toNat := by
  obtain ⟨-, -, -, -, -, he⟩ := hp
  rw [Config.hdrMin] at he
  exact imageU32_eq_iff image _ (by omega) e

/-- Everything the loader can answer, and when (R221 to R225). -/
theorem loadImage_cases (hp : p.wf) :
    (¬ (52 < image.length ∧ image.length < p.memSize) ∧ loadImage p image = .error (.badSize image.length)) ∨
    ((52 < image.length ∧ image.length < p.memSize) ∧
      ((¬ MagicOk p image ∧ loadImage p image = .error .badMagic) ∨
       (MagicOk p image ∧ ¬ TypeOk p image ∧ loadImage p image = .error .badType) ∨
       (MagicOk p image ∧ TypeOk p image ∧ ¬ MachineOk p image ∧ loadImage p image = .error .badMachine) ∨
       (MagicOk p image ∧ TypeOk p image ∧ MachineOk p image ∧ loadImage p image = .ok (imageU32 image p.offEntry)))) := by
  by_cases hs : 52 < image.length ∧ image.length < p.memSize
  · refine .inr ⟨hs, ?_⟩
    have hsize : ¬¬ (Config.hdrMin < image.length ∧ image.length < p.memSize) := not_not_intro hs
    rw [loadImage, if_neg hsize]
    by_cases hmagic : MagicOk p image
    · rw [if_neg (mt (magic_iff hs.1).1 (not_not_intro hmagic))]
      by_cases htype : TypeOk p image
      · rw [if_neg (mt (type_iff hp hs.1).1 (not_not_intro htype))]
        by_cases hmachine : MachineOk p image
        · rw [if_neg (mt (machine_iff hp hs.1).1 (not_not_intro hmachine))]
          exact .inr (.inr (.inr ⟨hmagic, htype, hmachine, rfl⟩))
        · exact .inr (.inr (.inl ⟨hmagic, htype, hmachine, if_pos ((machine_iff hp hs.1).2 hmachine)⟩))
      · exact .inr (.inl ⟨hmagic, htype, if_pos ((type_iff hp hs.1).2 htype)⟩)
    · exact .inl ⟨hmagic, if_pos ((magic_iff hs.1).2 hmagic)⟩
  · exact .inl ⟨hs, if_pos hs⟩

end

/-- Settles O50: the five cases of `loadImage_cases` exclude each other, and each of the five claims names one of them. -/
theorem loaderNamesTheFirstFailingCheck : Obligations.LoaderNamesTheFirstFailingCheck := by
  intro p image hp
  rcases loadImage_cases (image := image) hp with ⟨hs, h⟩ | ⟨hs, h⟩
  · simp [h, hs]
  · rcases h with ⟨hmagic, h⟩ | ⟨hmagic, htype, h⟩ | ⟨hmagic, htype, hmachine, h⟩ | ⟨hmagic, htype, hmachine, h⟩
    · simp [h, hs, hmagic]
    · simp [h, hs, hmagic, htype]
    · simp [h, hs, hmagic, htype, hmachine]
    · simp [h, hs, hmagic, htype, hmachine, entry_iff hp hs.1]

end Sys2Proof.Machine
end

section
/-! SUPPORT. What every instruction may change: registers (O53), memory (O54), pc (O55) and the halt (O56); the word the host
places (O57); and the mask every iteration takes (O58). -/

namespace Sys2Proof.Machine

/-! ### What every instruction may change -/

section
variable {s t : State} {i : Instr}

/-- R23: an instruction writes its rd, and call 200 writes x10. -/
theorem Effect.getReg (h : Effect s i t) (r : RegIdx) :
    t.getReg r = s.getReg r ∨ destinationOf i = some r ∨ (i = .ecall ∧ r = regA0 ∧ s.getReg regA0 = 200#32) := by
  cases h with
  | @result _ rd _ hd | @link _ rd _ hd =>
    by_cases hr : r = rd
    · exact .inr (.inl (hr ▸ hd))
    · exact .inl (State.getReg_setReg_ne s _ hr)
  | called => exact (State.syscall_getReg (s.setEcallPending true).advance s.pc r).imp_right fun ⟨hn, hr⟩ => .inr ⟨rfl, hr, hn⟩
  | branch | stored | outOfRange | broke | fenced => exact .inl rfl

/-- R50: memory changes inside the access a store computes. -/
theorem Effect.byteAt (h : Effect s i t) (a : Nat) :
    t.byteAt a = s.byteAt a ∨ ∃ ea n, storeTargetOf s i = some (ea, n) ∧ ∃ k, k < n ∧ byteAddr ea k = a := by
  cases h with
  | @stored _ ea v n ht =>
    by_cases hk : ∃ k, k < n ∧ byteAddr ea k = a
    · exact .inr ⟨ea, n, ht, hk⟩
    · exact .inl (s.byteAt_memWrite_outside ea n v fun k hlt heq => hk ⟨k, hlt, heq⟩)
  | called => exact .inl (State.byteAt_congr (by simp) (by simp) a)
  | result | link | branch | outOfRange | broke | fenced => exact .inl rfl

/-- R27: pc is `cur + 4`, unless control is transferred, or the instruction faulted (R97). -/
theorem Effect.pc (h : Effect s i t) (hc : transfersControl i = false) :
    t.pc = s.pc + 4#32 ∨ (t.pc = s.pc ∧ t.fatalHalt) := by
  cases h with
  | link _ hc' | branch _ hc' => exact absurd (hc'.symm.trans hc) (by decide)
  | outOfRange => exact .inr ⟨rfl, rfl, _, rfl⟩
  | called =>
    rcases State.syscall_halt (s.setEcallPending true).advance s.pc with ⟨-, -, -, hpc⟩ | ⟨he, hf, hpc⟩ | ⟨-, -, hpc⟩
    · exact .inl hpc
    · exact .inr ⟨hpc, he, hf⟩
    · exact .inl hpc
  | result | stored | broke | fenced => exact .inl rfl

/-- What an instruction may do to the halt: nothing, a fatal halt, or the exit of call 0 (R177, R191). -/
theorem Effect.exited (h : Effect s i t) :
    t.exited = s.exited ∨ t.fatalHalt ∨ (t.cleanExit ∧ i = .ecall ∧ s.getReg regA0 = 0#32) := by
  cases h with
  | outOfRange => exact .inr (.inl ⟨rfl, _, rfl⟩)
  | called =>
    rcases State.syscall_halt (s.setEcallPending true).advance s.pc with ⟨hn, he, hx, -⟩ | ⟨he, hf, -⟩ | ⟨he, -, -⟩
    · exact .inr (.inr ⟨⟨he, hx⟩, rfl, hn⟩)
    · exact .inr (.inl ⟨he, hf⟩)
    · exact .inl he
  | result | link | branch | stored | broke | fenced => exact .inl rfl

end

/-- Settles O53: the registers an instruction may write (`Effect.getReg`); x0 reads 0 before and after. -/
theorem onlyTheNamedRegistersAreWritten : Obligations.OnlyTheNamedRegistersAreWritten := by
  intro i s t r h hne
  refine ⟨?_, ((effect_of_exec h).getReg r).resolve_left hne⟩
  rintro rfl
  exact hne rfl

/-- Settles O54: the bytes an instruction may write (`Effect.byteAt`). -/
theorem onlyStoresChangeMemory : Obligations.OnlyStoresChangeMemory := fun _ _ _ a h hne =>
  ((effect_of_exec h).byteAt a).resolve_left hne

/-- Settles O55: where an instruction may leave pc (`Effect.pc`). -/
theorem otherInstructionsAdvancePcByFour : Obligations.OtherInstructionsAdvancePcByFour := fun _ _ _ hc h =>
  (effect_of_exec h).pc hc

/-- What a step may do to the halt. -/
theorem exited_of_engineStep {s t : State} (h : s.engineStep = .next t) :
    t.exited = s.exited ∨ t.fatalHalt ∨ (t.cleanExit ∧ decode s.fetchWord = .instr .ecall ∧ s.getReg regA0 = 0#32) := by
  obtain ⟨u, hu, rfl⟩ := stepEffect_of_engineStep h
  simp only [State.fatalHalt, State.cleanExit, State.retire_exited, State.retire_haltReason]
  cases hu with
  | halted f => exact .inr (.inl ⟨rfl, f, rfl⟩)
  | noOp => exact .inl rfl
  | ran hd he => exact he.exited.imp_right (.imp_right fun ⟨hx, hi, hn⟩ => ⟨hx, hi ▸ hd, hn⟩)

/-- Settles O56: of the cases of `step_cases`, a good load and an iteration without a step halt nothing, a refused load is the
third ending, and a step halts by call 0 or a fatal condition (`exited_of_engineStep`). -/
theorem onlyExitFaultOrFailedLoadHalts : Obligations.OnlyExitFaultOrFailedLoadHalts := by
  intro s t he ht hx
  rcases step_cases s with ⟨hr, hs⟩ | ⟨-, -, u, hu, hs⟩ | ⟨-, -, hs⟩ <;> rw [hs] at ht <;> cases ht
  · rcases s.poll.doReset_cases with ⟨e, -, h⟩ | ⟨k, -, h⟩ <;> rw [h] at hx ⊢
    · cases hx
    · exact .inr (.inr ⟨⟨rfl, k, rfl⟩, hr⟩)
  · rcases exited_of_engineStep hu with h | h | ⟨h, hd, hn⟩
    · simp [h, he] at hx
    · exact .inr (.inl h)
    · exact .inl ⟨h, s.fetchWord_poll_applySignals _ ▸ hd, hn⟩
  · simp [he] at hx

/-! ### The placed word (log 11) -/

/-- The checks before a fetch look at pc and the parameters alone. -/
theorem fetchFatal_congr {s t : State} (hp : t.params = s.params) (hpc : t.pc = s.pc) : t.fetchFatal = s.fetchFatal := by
  have hr : t.inRange s.pc 4 = s.inRange s.pc 4 := by simp only [State.inRange, hp]
  rw [State.fetchFatal, State.fetchFatal, hpc, hr, hp]

/-- At pc 0 a word can be fetched, whatever the legal parameters (R9: MEM_SIZE is at least 54). -/
theorem fetchFatal_at_zero {s : State} (hp : s.params.wf) (hpc : s.pc = 0#32) : s.fetchFatal = none := by
  obtain ⟨hsize, -⟩ := hp
  have h0 : s.pc.toNat = 0 := by simp [hpc]
  refine fetchFatal_of_inside (by omega) (.inr (by omega)) fun k hk => ?_
  have ha : byteAddr s.pc k = k := by
    rw [byteAddr, hpc, BitVec.zero_add, BitVec.toNat_ofNat]
    omega
  omega

theorem placeWord_pc (s : State) (w : Word) : (s.placeWord w).pc = if s.fetchFatal.isNone then s.pc else 0#32 := rfl

theorem placeWord_buttonSample (s : State) (w : Word) : (s.placeWord w).buttonSample = 0#32 := rfl

/-- The placed word can be fetched: pc is kept only where it already could be. -/
theorem placeWord_fetchFatal {s : State} (hp : s.params.wf) (w : Word) : (s.placeWord w).fetchFatal = none := by
  cases hf : s.fetchFatal with
  | none => exact (fetchFatal_congr (s := s) (t := s.placeWord w) rfl (by simp [placeWord_pc, hf])).trans hf
  | some => exact fetchFatal_at_zero (s := s.placeWord w) hp (by simp [placeWord_pc, hf])

theorem placeWord_fetchWord (s : State) (w : Word) : (s.placeWord w).fetchWord = w :=
  (memRead_memWrite _ _ 4 w (by decide)).trans (leValue_leBytes_four w)

/-- Settles O57: the mask placed is 0, pc is one at which a word can be fetched, and the bytes there are the word's. -/
theorem placedWordIsFetchedNext : Obligations.PlacedWordIsFetchedNext := by
  intro s w hp
  have hw : BitVec.ofNat 32 (w % 2 ^ 32) = BitVec.ofNat 32 w := BitVec.eq_of_toNat_eq (by simp)
  rw [State.withFetchWord, hw, placeWord_buttonSample]
  exact ⟨rfl, mayStep_of rfl (.inl rfl), placeWord_fetchFatal hp _, placeWord_fetchWord s _, rfl,
    fun hf => by simp [placeWord_pc, hf]⟩

/-! ### The mask (R195, R196) -/

theorem StepEffect.buttons {s t : State} (h : StepEffect s t) :
    t.buttons = s.buttons ∧ t.freeButtons = s.freeButtons := by
  cases h with
  | ran _ he => exact ⟨he.buttons, he.freeButtons⟩
  | halted | noOp => exact ⟨rfl, rfl⟩

/-- Whatever it does, an iteration leaves the masks as the poll left them. -/
theorem buttons_of_step {s t : State} (h : step s = .next t) :
    t.buttons = s.poll.buttons ∧ t.freeButtons = s.poll.freeButtons := by
  rcases step_cases s with ⟨-, hs⟩ | ⟨-, -, u, hu, hs⟩ | ⟨-, -, hs⟩ <;> rw [hs] at h <;> cases h
  · rcases s.poll.doReset_cases with ⟨e, -, h⟩ | ⟨k, -, h⟩ <;> rw [h] <;> exact ⟨rfl, rfl⟩
  · obtain ⟨v, hv, rfl⟩ := stepEffect_of_engineStep hu
    simpa using hv.buttons
  · exact ⟨rfl, rfl⟩

/-- Settles O58: the poll takes the mask, and nothing after it takes another (`buttons_of_step`). -/
theorem everyIterationTakesOneMask : Obligations.EveryIterationTakesOneMask := by
  intro s
  obtain ⟨t, ht⟩ := everyIterationAnswersANextState.2 s
  obtain ⟨hb, hf⟩ := buttons_of_step ht
  refine ⟨t, ht, fun b bs h => ?_, fun h => ?_⟩ <;> simp [State.buttonSample, hb, hf, h]

end Sys2Proof.Machine
end
